-- ==== Sys2Proof/Word.lean ====
section
/-! DEFINITION. The word types of the FCS core: register words and `pc` values (`W = P = 32`, R9), the 128-bit
decoded-instruction word (R78) and program text. The arithmetic of R10 is in `Machine/Alu.lean`. -/

namespace Sys2Proof

/-- A data register value: `W = 32` bits, read as two's complement (R9, R20). -/
abbrev Word := BitVec 32

/-- A program counter value: `P = 32` bits, unsigned (R9, R23). -/
abbrev Pc := BitVec 32

/-- The 128-bit decoded-instruction word, DIW (R78). -/
abbrev Diw := BitVec 128

/-- A piece of program text: a line, a mnemonic, an operand token or a label name (R29, R60). -/
abbrev Text := List Char

/-- A data register index, 0 to 9 (R20). -/
abbrev RegIndex := Fin 10

/-- The position of an operand whose failure a fatal error records: 0, 1 or 2 (R31). -/
abbrev OperandIndex := Fin 3

end Sys2Proof
end

