-- ==== Sys2Proof/Syntax.lean ====
section
/-! DEFINITION. The instruction syntax: operand classes, operand lists, and `Instr` with one constructor per row of
spec/opcode_table.json. An instruction holds exactly the facts execution reads (R84): the operation, the operand
count up to "four or more", and the class and value of the first three operands. A wrong operand count is no syntax
error here: the spec gives it an effect, `ArityError` (R103), so every count is representable. -/

namespace Sys2Proof

/-- An operand of an instruction that is no jump, in its class of R69. -/
inductive Src where
  /-- `REG(d)`: the register token `r<d>`. -/
  | reg (d : RegIndex)
  /-- `LIT(v)`: a literal; `v` is its value as a word (R70). -/
  | lit (v : Word)
  /-- `BAD`: any other token. -/
  | bad
  deriving DecidableEq, Repr

/-- The operand of a control-transfer instruction: a label name, looked up (R73, R79). -/
inductive Target where
  /-- A defined label; `v` is its table value as a 32-bit two's-complement word, so −1 is `0xFFFFFFFF`. -/
  | label (v : Word)
  /-- A name with no label line. -/
  | undefined
  deriving DecidableEq, Repr

/-- An operand list as far as execution reads it (R84): the count, exact up to three, and the first three operands. -/
inductive Operands (α : Type) where
  | zero
  | one (a : α)
  | two (a b : α)
  | three (a b c : α)
  /-- Four or more operands (format `TN`, R75); the first three. -/
  | fourPlus (a b c : α)
  deriving DecidableEq, Repr

/-- The 17 instructions (R2, R76), in the order of their `OPC` numbers. -/
inductive Instr where
  | mov (ops : Operands Src)
  | cmp (ops : Operands Src)
  | test (ops : Operands Src)
  | add (ops : Operands Src)
  | sub (ops : Operands Src)
  | mul (ops : Operands Src)
  | div (ops : Operands Src)
  | and (ops : Operands Src)
  | or (ops : Operands Src)
  | xor (ops : Operands Src)
  | not (ops : Operands Src)
  | jmp (ops : Operands Target)
  | je (ops : Operands Target)
  | jl (ops : Operands Target)
  | jle (ops : Operands Target)
  | jg (ops : Operands Target)
  | jge (ops : Operands Target)
  deriving DecidableEq, Repr

/-- Why a decoded-instruction word is ill-formed (R83). -/
inductive BadWord where
  /-- `RSV`, bits 31:14, is not zero. -/
  | reservedBits
  /-- `NOPS` is 5, 6 or 7. -/
  | operandCount
  /-- A kind or value at an unused operand position is not zero. -/
  | unusedOperand
  /-- Kind `LBL` where the opcode takes registers and literals, or `REG` or `LIT` where it takes a label. -/
  | operandKind
  /-- A `REG` value above 9. -/
  | registerNumber
  /-- A `LIT` value at or above `2^31`. -/
  | literalRange
  /-- A `BAD` operand whose value is not zero (R79 fixes it at 0; assumption log entry 3). -/
  | badValue
  deriving DecidableEq, Repr

/-- What the opcode decoder makes of one entry of the instruction store (R81 to R83). -/
inductive Decoded where
  /-- One of the 17 instructions. -/
  | known (i : Instr)
  /-- No instruction: executing it raises `UnknownOperation` (R82, R102). -/
  | unknown
  /-- An ill-formed word: it has no meaning (R83). -/
  | illFormed (r : BadWord)
  deriving DecidableEq, Repr

end Sys2Proof
end

