-- ==== Sys2Proof/WellFormed.lean ====
section
/-! DEFINITION. Well-formed instructions: those some decoded-instruction word stands for. The types already bound a
register number by 9; what is left to check is that a literal lies below `2^31` (R70, R79, R83). -/

namespace Sys2Proof

/-- A literal is at most `2^31 − 1` (R70). -/
def Src.wf : Src → Bool
  | .reg _ => true
  | .lit v => decide (v.toNat < 2 ^ 31)
  | .bad => true

/-- Every label value of 32 bits is representable (R79). -/
def Target.wf : Target → Bool
  | .label _ => true
  | .undefined => true

/-- `p` holds of every operand held. -/
def Operands.all {α : Type} (p : α → Bool) : Operands α → Bool
  | .zero => true
  | .one a => p a
  | .two a b => p a && p b
  | .three a b c => p a && p b && p c
  | .fourPlus a b c => p a && p b && p c

/-- Every operand of the instruction is well formed. -/
def Instr.wf : Instr → Bool
  | .mov ops => ops.all Src.wf
  | .cmp ops => ops.all Src.wf
  | .test ops => ops.all Src.wf
  | .add ops => ops.all Src.wf
  | .sub ops => ops.all Src.wf
  | .mul ops => ops.all Src.wf
  | .div ops => ops.all Src.wf
  | .and ops => ops.all Src.wf
  | .or ops => ops.all Src.wf
  | .xor ops => ops.all Src.wf
  | .not ops => ops.all Src.wf
  | .jmp ops => ops.all Target.wf
  | .je ops => ops.all Target.wf
  | .jl ops => ops.all Target.wf
  | .jle ops => ops.all Target.wf
  | .jg ops => ops.all Target.wf
  | .jge ops => ops.all Target.wf

end Sys2Proof
end

