-- ==== Sys2Proof/Decode.lean ====
section
/-! DEFINITION. The opcode decoder over decoded-instruction words (R78 to R83), total on every 128-bit word, and after
it the encoder (R78 to R80). A DIW is defined by bit positions only and is never split into bytes (R42). -/

namespace Sys2Proof

/-- One operand position of a DIW: its kind and its value (R78). -/
structure Slot where
  kind : BitVec 2
  value : Word
  deriving DecidableEq, Repr

/-- `OPC`, bits 4:0 (R78). -/
def opcField (w : Diw) : BitVec 5 := w.extractLsb' 0 5

/-- `NOPS`, bits 7:5 (R78). -/
def nopsField (w : Diw) : BitVec 3 := w.extractLsb' 5 3

/-- `RSV`, bits 31:14 (R78). -/
def rsvField (w : Diw) : BitVec 18 := w.extractLsb' 14 18

/-- `K0`, bits 9:8, and `V0`, bits 63:32 (R78). -/
def slot0 (w : Diw) : Slot := { kind := w.extractLsb' 8 2, value := w.extractLsb' 32 32 }

/-- `K1`, bits 11:10, and `V1`, bits 95:64 (R78). -/
def slot1 (w : Diw) : Slot := { kind := w.extractLsb' 10 2, value := w.extractLsb' 64 32 }

/-- `K2`, bits 13:12, and `V2`, bits 127:96 (R78). -/
def slot2 (w : Diw) : Slot := { kind := w.extractLsb' 12 2, value := w.extractLsb' 96 32 }

/-- An unused operand position is all zero (R80). -/
def Slot.unused (c : Slot) : Bool := c.kind == 0#2 && c.value == 0#32

/-- A register operand's value names `r0` to `r9` (R79, R83). -/
def decodeReg (v : Word) : Except BadWord RegIndex :=
  if h : v.toNat < 10 then .ok ⟨v.toNat, h⟩ else .error .registerNumber

/-- An operand of `OPC` 0 to 10 or 31: kind `REG`, `LIT` or `BAD` (R79, R83). -/
def decodeSrc (c : Slot) : Except BadWord Src :=
  match c.kind.toNat with
  | 0 => (decodeReg c.value).map .reg
  | 1 => if c.value.toNat < 2 ^ 31 then .ok (.lit c.value) else .error .literalRange
  | 2 => .error .operandKind
  | _ => if c.value = 0#32 then .ok .bad else .error .badValue

/-- An operand of `OPC` 11 to 16: kind `LBL` or `BAD` (R79, R83). -/
def decodeTarget (c : Slot) : Except BadWord Target :=
  match c.kind.toNat with
  | 0 => .error .operandKind
  | 1 => .error .operandKind
  | 2 => .ok (.label c.value)
  | _ => if c.value = 0#32 then .ok .undefined else .error .badValue

/-- An operand of a reserved `OPC`, 17 to 30: R83 restricts no kind there, only the values (DEDUCED,
assumption log entry 5). -/
def decodeReserved (c : Slot) : Except BadWord Unit :=
  match c.kind.toNat with
  | 0 => (decodeReg c.value).map fun _ => ()
  | 1 => if c.value.toNat < 2 ^ 31 then .ok () else .error .literalRange
  | 2 => .ok ()
  | _ => if c.value = 0#32 then .ok () else .error .badValue

/-- Decode three operand positions, the first that is ill-formed deciding. -/
def decodeThree {α : Type} (f : Slot → Except BadWord α) (mk : α → α → α → Operands α) (c0 c1 c2 : Slot) :
    Except BadWord (Operands α) :=
  match f c0, f c1, f c2 with
  | .ok a, .ok b, .ok c => .ok (mk a b c)
  | .error r, _, _ => .error r
  | _, .error r, _ => .error r
  | _, _, .error r => .error r

/-- Decode two operand positions, the first that is ill-formed deciding. -/
def decodeTwo {α : Type} (f : Slot → Except BadWord α) (c0 c1 : Slot) : Except BadWord (Operands α) :=
  match f c0, f c1 with
  | .ok a, .ok b => .ok (.two a b)
  | .error r, _ => .error r
  | _, .error r => .error r

/-- The operand list of a DIW whose operands decode by `f` (R78 to R80, R83). -/
def decodeOperands {α : Type} (f : Slot → Except BadWord α) (w : Diw) : Except BadWord (Operands α) :=
  match (nopsField w).toNat with
  | 0 => if (slot0 w).unused && (slot1 w).unused && (slot2 w).unused then .ok .zero else .error .unusedOperand
  | 1 => if (slot1 w).unused && (slot2 w).unused then (f (slot0 w)).map .one else .error .unusedOperand
  | 2 => if (slot2 w).unused then decodeTwo f (slot0 w) (slot1 w) else .error .unusedOperand
  | 3 => decodeThree f .three (slot0 w) (slot1 w) (slot2 w)
  | 4 => decodeThree f .fourPlus (slot0 w) (slot1 w) (slot2 w)
  | _ => .error .operandCount

/-- The instruction of `OPC` 0 to 10, none for another number (R76). -/
def srcInstr (opc : Nat) (ops : Operands Src) : Option Instr :=
  match opc with
  | 0 => some (.mov ops)
  | 1 => some (.cmp ops)
  | 2 => some (.test ops)
  | 3 => some (.add ops)
  | 4 => some (.sub ops)
  | 5 => some (.mul ops)
  | 6 => some (.div ops)
  | 7 => some (.and ops)
  | 8 => some (.or ops)
  | 9 => some (.xor ops)
  | 10 => some (.not ops)
  | _ => none

/-- The instruction of `OPC` 11 to 16, none for another number (R76). -/
def jumpInstr (opc : Nat) (ops : Operands Target) : Option Instr :=
  match opc with
  | 11 => some (.jmp ops)
  | 12 => some (.je ops)
  | 13 => some (.jl ops)
  | 14 => some (.jle ops)
  | 15 => some (.jg ops)
  | 16 => some (.jge ops)
  | _ => none

/-- An opcode number with an instruction is known, one without is an unknown mnemonic (R82). -/
def decodedOf : Option Instr → Decoded
  | some i => .known i
  | none => .unknown

/-- The opcode numbers of the six control-transfer instructions (R76). -/
def isJumpOpc (opc : Nat) : Bool := decide (11 ≤ opc) && decide (opc ≤ 16)

/-- The opcode numbers the loader never writes (R82). -/
def isReservedOpc (opc : Nat) : Bool := decide (17 ≤ opc) && decide (opc ≤ 30)

/-- The opcode decoder on a decoded-instruction word (R81 to R83). -/
def decode (w : Diw) : Decoded :=
  if rsvField w ≠ 0#18 then .illFormed .reservedBits
  else if isJumpOpc (opcField w).toNat then
    match decodeOperands decodeTarget w with
    | .ok ops => decodedOf (jumpInstr (opcField w).toNat ops)
    | .error r => .illFormed r
  else if isReservedOpc (opcField w).toNat then
    match decodeOperands decodeReserved w with
    | .ok _ => .unknown
    | .error r => .illFormed r
  else
    match decodeOperands decodeSrc w with
    | .ok ops => decodedOf (srcInstr (opcField w).toNat ops)
    | .error r => .illFormed r

/-- The instruction the decoder reads from a word numbered as spec/opcode_table.json numbers it; the bits at and above
`nbits` are 0. A DIW is one 128-bit word with no byte order (R42), so its bits are the table's. -/
def decodeTableWord (nbits w : Nat) : Option Instr :=
  match decode (BitVec.ofNat 128 (w % 2 ^ nbits)) with
  | .known i => some i
  | .unknown => none
  | .illFormed _ => none

/-! ## The encoder -/

/-- The word of the given fields, with `RSV` zero (R78, R80). -/
def packWord (opc : BitVec 5) (nops : BitVec 3) (c0 c1 c2 : Slot) : Diw :=
  c2.value ++ c1.value ++ c0.value ++ 0#18 ++ c2.kind ++ c1.kind ++ c0.kind ++ nops ++ opc

/-- An unused operand position (R80). -/
def Slot.empty : Slot := { kind := 0#2, value := 0#32 }

/-- The kind and value of a register, literal or bad operand (R79). -/
def encodeSrc : Src → Slot
  | .reg d => { kind := 0#2, value := BitVec.ofNat 32 d.val }
  | .lit v => { kind := 1#2, value := v }
  | .bad => { kind := 3#2, value := 0#32 }

/-- The kind and value of a label operand (R79). -/
def encodeTarget : Target → Slot
  | .label v => { kind := 2#2, value := v }
  | .undefined => { kind := 3#2, value := 0#32 }

/-- The word of an opcode number and an operand list (R78 to R80). -/
def encodeOperands {α : Type} (g : α → Slot) (opc : BitVec 5) : Operands α → Diw
  | .zero => packWord opc 0#3 .empty .empty .empty
  | .one a => packWord opc 1#3 (g a) .empty .empty
  | .two a b => packWord opc 2#3 (g a) (g b) .empty
  | .three a b c => packWord opc 3#3 (g a) (g b) (g c)
  | .fourPlus a b c => packWord opc 4#3 (g a) (g b) (g c)

/-- The opcode number of an instruction (R76). -/
def Instr.opc : Instr → BitVec 5
  | .mov _ => 0#5
  | .cmp _ => 1#5
  | .test _ => 2#5
  | .add _ => 3#5
  | .sub _ => 4#5
  | .mul _ => 5#5
  | .div _ => 6#5
  | .and _ => 7#5
  | .or _ => 8#5
  | .xor _ => 9#5
  | .not _ => 10#5
  | .jmp _ => 11#5
  | .je _ => 12#5
  | .jl _ => 13#5
  | .jle _ => 14#5
  | .jg _ => 15#5
  | .jge _ => 16#5

/-- The decoded-instruction word of an instruction (R78 to R80). -/
def encode (i : Instr) : Diw :=
  match i with
  | .mov ops => encodeOperands encodeSrc i.opc ops
  | .cmp ops => encodeOperands encodeSrc i.opc ops
  | .test ops => encodeOperands encodeSrc i.opc ops
  | .add ops => encodeOperands encodeSrc i.opc ops
  | .sub ops => encodeOperands encodeSrc i.opc ops
  | .mul ops => encodeOperands encodeSrc i.opc ops
  | .div ops => encodeOperands encodeSrc i.opc ops
  | .and ops => encodeOperands encodeSrc i.opc ops
  | .or ops => encodeOperands encodeSrc i.opc ops
  | .xor ops => encodeOperands encodeSrc i.opc ops
  | .not ops => encodeOperands encodeSrc i.opc ops
  | .jmp ops => encodeOperands encodeTarget i.opc ops
  | .je ops => encodeOperands encodeTarget i.opc ops
  | .jl ops => encodeOperands encodeTarget i.opc ops
  | .jle ops => encodeOperands encodeTarget i.opc ops
  | .jg ops => encodeOperands encodeTarget i.opc ops
  | .jge ops => encodeOperands encodeTarget i.opc ops

end Sys2Proof
end

