-- ==== Sys2Proof/Config.lean ====
section
/-! DEFINITION. The implementation parameters of R9. The three OPEN ones (`OVF`, `LIT_FORM`, `SEP`: decisions D3, D5
and D7) are the fields of `Params`; a state carries them, so a statement about every state holds for every choice. -/

namespace Sys2Proof

/-- `OVF`: what an arithmetic result that does not fit becomes (R9, R113, D3). -/
inductive OverflowMode where
  | wrap
  | fault
  deriving DecidableEq, Repr

/-- `LIT_FORM`: which all-digit tokens are literals (R9, R70, D5). -/
inductive LiteralForm where
  | multi
  | single
  deriving DecidableEq, Repr

/-- `SEP`: how the loader separates operands (R9, R65 to R67, D7). -/
inductive Separator where
  | literal
  | trim
  deriving DecidableEq, Repr

/-- The OPEN parameters of R9. -/
structure Params where
  ovf : OverflowMode
  litForm : LiteralForm
  sep : Separator
  deriving DecidableEq, Repr

/-- The defaults of R9: `OVF = wrap`, `LIT_FORM = multi`, `SEP = literal`. -/
def Params.default : Params := { ovf := .wrap, litForm := .multi, sep := .literal }

/-- `NMAX`: the largest instruction count the loader accepts (R9, D19). -/
def maxInstructions : Nat := 2 ^ 31 - 1

end Sys2Proof
end

