-- ==== Sys2Proof/Machine/State.lean ====
section
/-! DEFINITION. The state of the core (10_state.md) as plain data, the state after reset, and the reasons a step stops. -/

namespace Sys2Proof.Machine

/-- The seven kinds of fatal error (R201). -/
inductive ErrorKind where
  | arityError
  | operandError
  | divideByZero
  | unknownLabel
  | duplicateLabel
  | unknownOperation
  | overflow
  deriving DecidableEq, Repr

/-- The halt state `HS` (R31). -/
inductive Halt where
  /-- `RUN`. -/
  | run
  /-- `FAULT(kind, fpc, opnd)`. -/
  | fault (kind : ErrorKind) (fpc : Pc) (opnd : Option OperandIndex)
  deriving DecidableEq, Repr

/-- One entry of the instruction store: the text the loader produced, or its DIW (R29). -/
inductive Entry where
  | text (mnemonic : Text) (operands : List Text)
  | word (w : Diw)
  deriving DecidableEq, Repr

/-- The architectural state (10_state.md), the two read-only inputs of a run, and the OPEN parameters of R9. -/
structure State where
  /-- The data registers `r0` to `r9` (R20). -/
  x : Vector Word 10
  /-- The program counter (R23). -/
  pc : Pc
  /-- The zero flag `ZF` (R26). -/
  zf : Bool
  /-- The sign flag `SF` (R26). -/
  sf : Bool
  /-- The halt state `HS` (R31). -/
  hs : Halt
  /-- The instruction store `IMEM`; its length is `N` (R29). -/
  imem : List Entry
  /-- The label table `LT` (R30). -/
  labels : List (Text × Int)
  /-- The parameters `OVF`, `LIT_FORM` and `SEP` (R9; assumption log entry 1). -/
  params : Params
  deriving DecidableEq, Repr

/-- Why the machine makes no further step (R100). -/
inductive Fault where
  /-- `step` answers it where `HS = RUN` and `pc >= N`: the run has ended successfully, status `DONE` (R33, R100, R111).
  Safe: the spec has no step here. -/
  | runEnded
  /-- `step` answers it where `HS = FAULT(...)`: the core is stuck, status `FAULT` (R33, R100, R210). Safe: the spec has
  no step here. -/
  | coreFaulted
  deriving DecidableEq, Repr

/-- What has no meaning in the model. -/
inductive Refusal where
  /-- An instruction of the table without a meaning; no arm of `exec` answers it. Safe: nothing is claimed of it. -/
  | notModelled (mnemonic : String)
  /-- `step` answers it where the word at `pc` is ill-formed: "A model given such a word refuses it" (R83). Safe
where it stops; that a store with such a word runs until the word is fetched is assumption log entry 18. -/
  | illFormedWord (r : BadWord)
  deriving DecidableEq, Repr

/-- The state right after reset with a given program, label table and parameters (R22, R25, R27, R32, R230). -/
def State.resetWith (p : Params) (imem : List Entry) (labels : List (Text × Int)) (hs : Halt) : State :=
  { x := Vector.replicate 10 0#32, pc := 0#32, zf := false, sf := false, hs := hs, imem := imem, labels := labels,
    params := p }

/-- The state right after reset under the default parameters with no program loaded, `N = 0` (R230; assumption log
entry 9: `boot` gives the reset state of a loaded program). -/
def State.reset : State := State.resetWith Params.default [] [] .run

end Sys2Proof.Machine
end

