-- ==== Sys2Proof/Machine/Alu.lean ====
section
/-! DEFINITION. The ALU (R112, R113) over the arithmetic of R10: exact integers first, narrowed at the end. -/

namespace Sys2Proof.Machine

/-- `fits_W(n)` (R10). -/
def fitsWord (n : Int) : Bool := decide (-2 ^ 31 ≤ n) && decide (n ≤ 2 ^ 31 - 1)

/-- `wrap_W(n)` (R10): the word whose signed value is congruent to `n` modulo `2^W`. -/
def wrapWord (n : Int) : Word := BitVec.ofInt 32 n

/-- `chk(r)` (R113): the word of an exact result, or none where `OVF = fault` raises `Overflow`. -/
def chk (ovf : OverflowMode) (r : Int) : Option Word :=
  if fitsWord r then some (wrapWord r)
  else match ovf with
    | .wrap => some (wrapWord r)
    | .fault => none

/-- `ADD(a, b)` (R112). -/
def aluAdd (ovf : OverflowMode) (a b : Word) : Option Word := chk ovf (a.toInt + b.toInt)

/-- `SUB(a, b)` (R112). -/
def aluSub (ovf : OverflowMode) (a b : Word) : Option Word := chk ovf (a.toInt - b.toInt)

/-- `MUL(a, b)` (R112). -/
def aluMul (ovf : OverflowMode) (a b : Word) : Option Word := chk ovf (a.toInt * b.toInt)

/-- `DIV(a, b)` (R112): the quotient rounded toward zero; the caller has excluded `b = 0`. -/
def aluDiv (ovf : OverflowMode) (a b : Word) : Option Word := chk ovf (Int.tdiv a.toInt b.toInt)

/-- `AND(a, b)` (R112). -/
def aluAnd (a b : Word) : Word := a &&& b

/-- `OR(a, b)` (R112). -/
def aluOr (a b : Word) : Word := a ||| b

/-- `XOR(a, b)` (R112). -/
def aluXor (a b : Word) : Word := a ^^^ b

/-- `LNOT(a)` (R112): logical, not bitwise. -/
def aluLnot (a : Word) : Word := if a = 0#32 then 1#32 else 0#32

end Sys2Proof.Machine
end

