-- ==== Sys2Proof/Machine/Flags.lean ====
section
/-! DEFINITION. The flag update logic (R109). -/

namespace Sys2Proof.Machine

/-- `ZF` of a recent result: it equals 0 (R109). -/
def zeroFlagOf (res : Word) : Bool := res == 0#32

/-- `SF` of a recent result: it is negative as a signed word (R109). -/
def signFlagOf (res : Word) : Bool := decide (res.toInt < 0)

/-- Both flags are written from the recent result, every time (R109). -/
def State.setFlags (s : State) (res : Word) : State := { s with zf := zeroFlagOf res, sf := signFlagOf res }

end Sys2Proof.Machine
end

