-- ==== Sys2Proof/Machine/Ops.lean ====
section
/-! DEFINITION. The named operations over the state: registers, program counter, instruction store, the commit of a step
(R107, R108, R110) and the entry of a fatal error (R209). There is no return from a fatal error (R210), and no data
memory (R40). -/

namespace Sys2Proof.Machine

/-! ## Registers and program counter -/

/-- Read data register `d` (R11, R20). -/
def State.reg (s : State) (d : RegIndex) : Word := s.x[d]

/-- Write data register `d`; none is hard-wired (R11, R20). -/
def State.setReg (s : State) (d : RegIndex) (v : Word) : State := { s with x := s.x.set d v }

/-- Write the program counter (R11). -/
def State.setPc (s : State) (v : Pc) : State := { s with pc := v }

/-- Write the halt state (R31). -/
def State.setHalt (s : State) (h : Halt) : State := { s with hs := h }

/-- The program counter sequencer: the label value of a taken jump, or `pc`, plus one modulo `2^P` (R24, R110). -/
def nextPc (pc : Pc) (tgt : Option Word) : Pc :=
  match tgt with
  | none => pc + 1#32
  | some v => v + 1#32

/-! ## The instruction store -/

/-- `N`, the length of the instruction store (R29). -/
def State.count (s : State) : Nat := s.imem.length

/-- `IMEM[pc]`, none at or above `N` (R101). -/
def State.fetch (s : State) : Option Entry := s.imem[s.pc.toNat]?

/-- The form of the instruction store: `N` is at most `NMAX` (R29). The store is a list without gaps, so its indices are
dense by construction. -/
abbrev State.imemWf (s : State) : Prop := s.imem.length ≤ maxInstructions

/-- The state with the word `w` loaded at index `pc` and the core running: an entry there is replaced; where `pc` lies
past the end, the store is extended up to it with zero words. This stands for the host's load (assumption log entry 8). -/
def State.placeWord (s : State) (w : Diw) : State :=
  { s with
    hs := .run
    imem := (s.imem ++ List.replicate (s.pc.toNat + 1 - s.imem.length) (Entry.word 0#128)).set s.pc.toNat (Entry.word w) }

/-! ## Handlers, commit and fatal errors -/

/-- A raised fatal error: its kind and the operand it records (R12, R201). -/
structure Raised where
  kind : ErrorKind
  opnd : Option OperandIndex
  deriving DecidableEq, Repr

/-- What a handler returns (R107): the recent result, at most one register write, and the label value of a taken jump. -/
structure Result where
  res : Word
  wr : Option (RegIndex × Word)
  tgt : Option Word
  deriving DecidableEq, Repr

/-- `ArityError(none)` (R202). -/
def arityError : Raised := { kind := .arityError, opnd := none }

/-- `OperandError(k)` (R203). -/
def operandError (k : OperandIndex) : Raised := { kind := .operandError, opnd := some k }

/-- `DivideByZero(1)` (R204). -/
def divideByZero : Raised := { kind := .divideByZero, opnd := some 1 }

/-- `UnknownLabel(0)` (R206). -/
def unknownLabel : Raised := { kind := .unknownLabel, opnd := some 0 }

/-- `UnknownOperation(none)` (R207). -/
def unknownOperation : Raised := { kind := .unknownOperation, opnd := none }

/-- `Overflow(none)` (R211). -/
def overflowError : Raised := { kind := .overflow, opnd := none }

/-- The register write of a handler's result, if any. -/
def State.applyWrite (s : State) (wr : Option (RegIndex × Word)) : State :=
  match wr with
  | none => s
  | some (d, v) => s.setReg d v

/-- The commit of a completed instruction: the register write, then the flags, then the program counter (R108). -/
def State.commit (s : State) (r : Result) : State :=
  ((s.applyWrite r.wr).setFlags r.res).setPc (nextPc s.pc r.tgt)

/-- Taking a fatal error: `HS <- FAULT(kind, pc, opnd)` and nothing else (R209). -/
def State.raise (s : State) (e : Raised) : State := s.setHalt (.fault e.kind s.pc e.opnd)

/-- The end of an instruction: commit what its handler returned, or take the error it raised (R115). -/
def finish (s : State) (h : Except Raised Result) : Host.Outcome State Fault Refusal :=
  match h with
  | .ok r => .next (s.commit r)
  | .error e => .next (s.raise e)

end Sys2Proof.Machine
end

