-- ==== Sys2Proof/Machine/Operands.lean ====
section
/-! DEFINITION. Operands: the classes of text tokens (R69, R70, R73), the operand resolver (R104), register operands
(R105), destination resolution (R106), the label lookup (R176), and the handler shape the two- and three-operand
instructions share. -/

namespace Sys2Proof.Machine

/-! ## Tokens -/

/-- The value of an ASCII decimal digit (R69, D6). -/
def digitValue (c : Char) : Option RegIndex :=
  if h : 48 ≤ c.toNat ∧ c.toNat ≤ 57 then some ⟨c.toNat - 48, by omega⟩ else none

/-- An ASCII decimal digit. -/
def isDigit (c : Char) : Bool := (digitValue c).isSome

/-- `regidx(tok)`: exactly the character `r` and one digit (R69). -/
def regIdx (tok : Text) : Option RegIndex :=
  match tok with
  | [r, d] => if r = 'r' then digitValue d else none
  | _ => none

/-- The decimal value of a run of digits, `acc` being the value of those before it (R70). -/
def decimalFrom (acc : Nat) : Text → Nat
  | [] => acc
  | c :: rest => decimalFrom (10 * acc + ((digitValue c).map Fin.val).getD 0) rest

/-- The value of a literal token under `LIT_FORM`, none if the token is no literal (R69, R70). -/
def literalValue (form : LiteralForm) (tok : Text) : Option Nat :=
  if tok ≠ [] ∧ tok.all isDigit = true ∧ decimalFrom 0 tok ≤ 2 ^ 31 - 1 ∧ (form = .single → tok.length = 1) then
    some (decimalFrom 0 tok)
  else none

/-- The class of an operand token of an instruction that is no jump (R69). -/
def classify (form : LiteralForm) (tok : Text) : Src :=
  match regIdx tok with
  | some d => .reg d
  | none =>
    match literalValue form tok with
    | some v => .lit (BitVec.ofNat 32 v)
    | none => .bad

/-- `LT(name)` (R11, R30). -/
def lookupLabel (labels : List (Text × Int)) (name : Text) : Option Int :=
  match labels with
  | [] => none
  | (n, v) :: rest => if n = name then some v else lookupLabel rest name

/-- The operand of a jump: a label name, never a register or literal (R73, D25). -/
def classifyLabel (labels : List (Text × Int)) (tok : Text) : Target :=
  match lookupLabel labels tok with
  | some v => .label (BitVec.ofInt 32 v)
  | none => .undefined

/-- The operand list of a token list, each token classified by `f`. -/
def operandsOf {α : Type} (f : Text → α) : List Text → Operands α
  | [] => .zero
  | [a] => .one (f a)
  | [a, b] => .two (f a) (f b)
  | [a, b, c] => .three (f a) (f b) (f c)
  | a :: b :: c :: _ :: _ => .fourPlus (f a) (f b) (f c)

/-! ## Resolving operands -/

/-- `resolve(k)` (R104). -/
def resolve (s : State) (k : OperandIndex) : Src → Except Raised Word
  | .reg d => .ok (s.reg d)
  | .lit v => .ok v
  | .bad => .error (operandError k)

/-- `needreg(k)` (R105). -/
def needReg (k : OperandIndex) : Src → Except Raised RegIndex
  | .reg d => .ok d
  | .lit _ => .error (operandError k)
  | .bad => .error (operandError k)

/-- `label()` (R176). -/
def needLabel : Target → Except Raised Word
  | .label v => .ok v
  | .undefined => .error unknownLabel

/-- Both source operands, operand 0 before operand 1 (R208). -/
def resolveTwo (s : State) (a b : Src) : Except Raised (Word × Word) :=
  match resolve s 0 a with
  | .error e => .error e
  | .ok va =>
    match resolve s 1 b with
    | .error e => .error e
    | .ok vb => .ok (va, vb)

/-! ## Shared handler shapes -/

/-- The handler of an instruction that writes its result to a destination: the destination first, then the sources, then
the ALU function, whose result is both written and returned (R106, R208, 43_arith_logic.md). -/
def intoDest (s : State) (k : OperandIndex) (dest a b : Src) (f : Word → Word → Except Raised Word) :
    Except Raised Result :=
  match needReg k dest with
  | .error e => .error e
  | .ok d =>
    match resolveTwo s a b with
    | .error e => .error e
    | .ok (va, vb) =>
      match f va vb with
      | .error e => .error e
      | .ok r => .ok { res := r, wr := some (d, r), tgt := none }

/-- The two- or three-operand form (R106): two operands make operand 0 the destination and a source, three make operand 2
the destination. -/
def twoOrThree (s : State) (ops : Operands Src) (f : Word → Word → Except Raised Word) : Except Raised Result :=
  match ops with
  | .two a b => intoDest s 0 a a b f
  | .three a b c => intoDest s 2 c a b f
  | .zero => .error arityError
  | .one _ => .error arityError
  | .fourPlus _ _ _ => .error arityError

/-- The comparison form: two sources, nothing written (42_comparison.md). -/
def compareTwo (s : State) (ops : Operands Src) (f : Word → Word → Except Raised Word) : Except Raised Result :=
  match ops with
  | .two a b =>
    match resolveTwo s a b with
    | .error e => .error e
    | .ok (va, vb) =>
      match f va vb with
      | .error e => .error e
      | .ok r => .ok { res := r, wr := none, tgt := none }
  | .zero => .error arityError
  | .one _ => .error arityError
  | .three _ _ _ => .error arityError
  | .fourPlus _ _ _ => .error arityError

/-- The control-transfer form: the label is looked up first, whether or not the jump is taken (R176). -/
def jumpWhen (taken : Bool) (res : Word) (ops : Operands Target) : Except Raised Result :=
  match ops with
  | .one t =>
    match needLabel t with
    | .error e => .error e
    | .ok v => .ok { res := res, wr := none, tgt := if taken then some v else none }
  | .zero => .error arityError
  | .two _ _ => .error arityError
  | .three _ _ _ => .error arityError
  | .fourPlus _ _ _ => .error arityError

/-- The recent result of a jump that reports whether it was taken: 1 if jumped else 0. -/
def takenResult (taken : Bool) : Word := if taken then 1#32 else 0#32

/-- An ALU result, none being the overflow that `OVF = fault` raises (R113, R211). -/
def orOverflow : Option Word → Except Raised Word
  | some r => .ok r
  | none => .error overflowError

end Sys2Proof.Machine
end

