-- ==== Sys2Proof/Machine/Assemble.lean ====
section
/-! DEFINITION. The decoder of an instruction store entry: the text-level decoder (R72, R73, R102), the DIW of a text
instruction (R79), and the transport of a loaded state to the DIW level (R84). -/

namespace Sys2Proof.Machine

/-- The dispatch table (R72, R76): each mnemonic with its opcode number. -/
def mnemonicTable : List (Text × BitVec 5) :=
  [(['m', 'o', 'v'], 0#5), (['c', 'm', 'p'], 1#5), (['t', 'e', 's', 't'], 2#5), (['a', 'd', 'd'], 3#5),
    (['s', 'u', 'b'], 4#5), (['m', 'u', 'l'], 5#5), (['d', 'i', 'v'], 6#5), (['a', 'n', 'd'], 7#5), (['o', 'r'], 8#5),
    (['x', 'o', 'r'], 9#5), (['n', 'o', 't'], 10#5), (['j', 'm', 'p'], 11#5), (['j', 'e'], 12#5), (['j', 'l'], 13#5),
    (['j', 'l', 'e'], 14#5), (['j', 'g'], 15#5), (['j', 'g', 'e'], 16#5)]

/-- The opcode number of a mnemonic in a dispatch table, 31 for one outside it; the comparison is exact (R72, R82). -/
def opcIn (table : List (Text × BitVec 5)) (mn : Text) : BitVec 5 :=
  match table with
  | [] => 31#5
  | (name, opc) :: rest => if name = mn then opc else opcIn rest mn

/-- The opcode number of a mnemonic (R72, R76, R82). -/
def opcOf (mn : Text) : BitVec 5 := opcIn mnemonicTable mn

/-- The text-level decoder: dispatch by mnemonic, operands by their class, a jump's operand by the label table (R69, R72,
R73, R102). -/
def decodeText (form : LiteralForm) (labels : List (Text × Int)) (mn : Text) (ops : List Text) : Decoded :=
  if isJumpOpc (opcOf mn).toNat then
    decodedOf (jumpInstr (opcOf mn).toNat (operandsOf (classifyLabel labels) ops))
  else decodedOf (srcInstr (opcOf mn).toNat (operandsOf (classify form) ops))

/-- The decoder of one entry of the instruction store, at its level (R8, R81). -/
def decodeEntry (form : LiteralForm) (labels : List (Text × Int)) (e : Entry) : Decoded :=
  match e with
  | .text mn ops => decodeText form labels mn ops
  | .word w => decode w

/-- The DIW of a text instruction (R78 to R80). -/
def diwOfText (form : LiteralForm) (labels : List (Text × Int)) (mn : Text) (ops : List Text) : Diw :=
  if isJumpOpc (opcOf mn).toNat then encodeOperands encodeTarget (opcOf mn) (operandsOf (classifyLabel labels) ops)
  else encodeOperands encodeSrc (opcOf mn) (operandsOf (classify form) ops)

/-- An entry at the DIW level. -/
def entryToWord (form : LiteralForm) (labels : List (Text × Int)) (e : Entry) : Entry :=
  match e with
  | .text mn ops => .word (diwOfText form labels mn ops)
  | .word w => .word w

/-- The state at the DIW level: every entry is a word and the label table is gone, being "no longer needed by the core"
(R30, R79). -/
def State.toWords (s : State) : State :=
  { s with imem := s.imem.map (entryToWord s.params.litForm s.labels), labels := [] }

end Sys2Proof.Machine
end

