-- ==== Sys2Proof/Machine/ArithLogic.lean ====
section
/-! DEFINITION. The arithmetic and logic family (43_arith_logic.md): `add`, `sub`, `mul`, `div`, `and`, `or`, `xor` and
`not`. -/

namespace Sys2Proof.Machine

/-- `add` (R150). -/
def execAdd (ops : Operands Src) (s : State) : Host.Outcome State Fault Refusal :=
  finish s (twoOrThree s ops fun a b => orOverflow (aluAdd s.params.ovf a b))

/-- `sub` (R151). -/
def execSub (ops : Operands Src) (s : State) : Host.Outcome State Fault Refusal :=
  finish s (twoOrThree s ops fun a b => orOverflow (aluSub s.params.ovf a b))

/-- `mul` (R152). -/
def execMul (ops : Operands Src) (s : State) : Host.Outcome State Fault Refusal :=
  finish s (twoOrThree s ops fun a b => orOverflow (aluMul s.params.ovf a b))

/-- `div` (R153): the zero divisor is checked before overflow (R208). -/
def execDiv (ops : Operands Src) (s : State) : Host.Outcome State Fault Refusal :=
  finish s (twoOrThree s ops fun a b =>
    if b = 0#32 then .error divideByZero else orOverflow (aluDiv s.params.ovf a b))

/-- `and` (R154). -/
def execAnd (ops : Operands Src) (s : State) : Host.Outcome State Fault Refusal :=
  finish s (twoOrThree s ops fun a b => .ok (aluAnd a b))

/-- `or` (R155). -/
def execOr (ops : Operands Src) (s : State) : Host.Outcome State Fault Refusal :=
  finish s (twoOrThree s ops fun a b => .ok (aluOr a b))

/-- `xor` (R156). -/
def execXor (ops : Operands Src) (s : State) : Host.Outcome State Fault Refusal :=
  finish s (twoOrThree s ops fun a b => .ok (aluXor a b))

/-- The handler of `not` (R157): logical negation of the register itself. -/
def handleNot (ops : Operands Src) (s : State) : Except Raised Result :=
  match ops with
  | .one a =>
    match needReg 0 a with
    | .error e => .error e
    | .ok d => .ok { res := aluLnot (s.reg d), wr := some (d, aluLnot (s.reg d)), tgt := none }
  | .zero => .error arityError
  | .two _ _ => .error arityError
  | .three _ _ _ => .error arityError
  | .fourPlus _ _ _ => .error arityError

/-- `not` (R157). -/
def execNot (ops : Operands Src) (s : State) : Host.Outcome State Fault Refusal :=
  finish s (handleNot ops s)

end Sys2Proof.Machine
end

