-- ==== Sys2Proof/Machine/Comparison.lean ====
section
/-! DEFINITION. The comparison family (42_comparison.md): `cmp` and `test`. -/

namespace Sys2Proof.Machine

/-- `cmp` (R140): the flags of operand 0 minus operand 1. -/
def execCmp (ops : Operands Src) (s : State) : Host.Outcome State Fault Refusal :=
  finish s (compareTwo s ops fun a b => orOverflow (aluSub s.params.ovf a b))

/-- `test` (R141): the flags of the bitwise AND. -/
def execTest (ops : Operands Src) (s : State) : Host.Outcome State Fault Refusal :=
  finish s (compareTwo s ops fun a b => .ok (aluAnd a b))

end Sys2Proof.Machine
end

