-- ==== Sys2Proof/Machine/ControlTransfer.lean ====
section
/-! DEFINITION. The control-transfer family (44_control_transfer.md). The conditions are the source's, which are not the
conventional meaning of the mnemonics (R170 to R178). -/

namespace Sys2Proof.Machine

/-- `jmp` (R170): always taken, recent result 1. -/
def execJmp (ops : Operands Target) (s : State) : Host.Outcome State Fault Refusal :=
  finish s (jumpWhen true 1#32 ops)

/-- The condition of `je` (R171): `ZF` false. -/
def jeTaken (s : State) : Bool := !s.zf

/-- `je` (R171). -/
def execJe (ops : Operands Target) (s : State) : Host.Outcome State Fault Refusal :=
  finish s (jumpWhen (jeTaken s) (takenResult (jeTaken s)) ops)

/-- The condition of `jl` (R172): `SF` true and `ZF` false. -/
def jlTaken (s : State) : Bool := s.sf && !s.zf

/-- `jl` (R172). -/
def execJl (ops : Operands Target) (s : State) : Host.Outcome State Fault Refusal :=
  finish s (jumpWhen (jlTaken s) (takenResult (jlTaken s)) ops)

/-- The condition of `jle` (R173): `SF` true and `ZF` true. -/
def jleTaken (s : State) : Bool := s.sf && s.zf

/-- `jle` (R173). -/
def execJle (ops : Operands Target) (s : State) : Host.Outcome State Fault Refusal :=
  finish s (jumpWhen (jleTaken s) (takenResult (jleTaken s)) ops)

/-- The condition of `jg` (R174): `SF` false and `ZF` false. -/
def jgTaken (s : State) : Bool := !s.sf && !s.zf

/-- `jg` (R174): it reports "not jumped" even when it jumps, so its recent result is always 0. -/
def execJg (ops : Operands Target) (s : State) : Host.Outcome State Fault Refusal :=
  finish s (jumpWhen (jgTaken s) 0#32 ops)

/-- The condition of `jge` (R175): `SF` false and `ZF` true. -/
def jgeTaken (s : State) : Bool := !s.sf && s.zf

/-- `jge` (R175). -/
def execJge (ops : Operands Target) (s : State) : Host.Outcome State Fault Refusal :=
  finish s (jumpWhen (jgeTaken s) (takenResult (jgeTaken s)) ops)

end Sys2Proof.Machine
end

