-- ==== Sys2Proof/Machine/DataMovement.lean ====
section
/-! DEFINITION. The data-movement family (41_data_movement.md): `mov`. -/

namespace Sys2Proof.Machine

/-- The handler of `mov` (R130): the recent result is always 0. -/
def handleMov (ops : Operands Src) (s : State) : Except Raised Result :=
  match ops with
  | .two a b =>
    match needReg 0 a with
    | .error e => .error e
    | .ok d =>
      match resolve s 1 b with
      | .error e => .error e
      | .ok v => .ok { res := 0#32, wr := some (d, v), tgt := none }
  | .zero => .error arityError
  | .one _ => .error arityError
  | .three _ _ _ => .error arityError
  | .fourPlus _ _ _ => .error arityError

/-- `mov` (R130). -/
def execMov (ops : Operands Src) (s : State) : Host.Outcome State Fault Refusal :=
  finish s (handleMov ops s)

end Sys2Proof.Machine
end

