-- ==== Sys2Proof/Machine/Dispatch.lean ====
section
/-! DEFINITION. The dispatch multiplexer (R102): one arm per instruction of the table, each one call of its meaning. -/

namespace Sys2Proof.Machine

def exec (i : Instr) (s : State) : Host.Outcome State Fault Refusal :=
  match i with
  | .mov ops => Sys2Proof.Machine.execMov ops s
  | .cmp ops => Sys2Proof.Machine.execCmp ops s
  | .test ops => Sys2Proof.Machine.execTest ops s
  | .add ops => Sys2Proof.Machine.execAdd ops s
  | .sub ops => Sys2Proof.Machine.execSub ops s
  | .mul ops => Sys2Proof.Machine.execMul ops s
  | .div ops => Sys2Proof.Machine.execDiv ops s
  | .and ops => Sys2Proof.Machine.execAnd ops s
  | .or ops => Sys2Proof.Machine.execOr ops s
  | .xor ops => Sys2Proof.Machine.execXor ops s
  | .not ops => Sys2Proof.Machine.execNot ops s
  | .jmp ops => Sys2Proof.Machine.execJmp ops s
  | .je ops => Sys2Proof.Machine.execJe ops s
  | .jl ops => Sys2Proof.Machine.execJl ops s
  | .jle ops => Sys2Proof.Machine.execJle ops s
  | .jg ops => Sys2Proof.Machine.execJg ops s
  | .jge ops => Sys2Proof.Machine.execJge ops s

end Sys2Proof.Machine
end

