-- ==== Sys2Proof/Machine/Step.lean ====
section
/-! DEFINITION. One step of the fetch-execute sequencer (R100, R101, R102, R115), and the host's placing of a word where
it fetches. -/

namespace Sys2Proof.Machine

/-- One step (R115). A state that is faulted or at the end of its run has none (R100). An ill-formed word (R83) is refused
here, by the step that fetches it, and one that is never fetched refuses nothing (DESIGN CHOICE, assumption log entry 18). -/
def step (s : State) : Host.Outcome State Fault Refusal :=
  match s.hs with
  | .fault _ _ _ => .fault .coreFaulted
  | .run =>
    match s.fetch with
    | none => .fault .runEnded
    | some e =>
      match decodeEntry s.params.litForm s.labels e with
      | .known i => exec i s
      | .unknown => .next (s.raise unknownOperation)
      | .illFormed r => .refused (.illFormedWord r)

/-- The state with the word `w`, its bits at and above `nbits` zero, stored where `step` fetches next. -/
def State.withFetchWord (s : State) (nbits w : Nat) : State := s.placeWord (BitVec.ofNat 128 (w % 2 ^ nbits))

end Sys2Proof.Machine
end

