-- ==== Sys2Proof/Machine/Status.lean ====
section
/-! DEFINITION. The status interface (R33, R37, R201): a read-only view for the host, never read by an instruction. -/

namespace Sys2Proof.Machine

/-- The run status (R33). -/
inductive RunStatus where
  | running
  | done
  | fault
  deriving DecidableEq, Repr

/-- The numeric code of an error kind (R201). -/
def errorCode : ErrorKind → Nat
  | .arityError => 1
  | .operandError => 2
  | .divideByZero => 3
  | .unknownLabel => 4
  | .duplicateLabel => 5
  | .unknownOperation => 6
  | .overflow => 7

/-- The numeric code of the halt state, 0 for no fault (R201). -/
def haltCode : Halt → Nat
  | .run => 0
  | .fault k _ _ => errorCode k

/-- The derived run status (R33). -/
def State.status (s : State) : RunStatus :=
  match s.hs with
  | .fault _ _ _ => .fault
  | .run => if s.pc.toNat < s.count then .running else .done

/-- The status view (R37): on a fault, `hs` gives `kind`, `fpc` and `opnd`. -/
structure StatusView where
  x : Vector Word 10
  pc : Pc
  zf : Bool
  sf : Bool
  status : RunStatus
  hs : Halt
  code : Nat
  deriving DecidableEq, Repr

/-- What the host reads after the run (R37). -/
def State.view (s : State) : StatusView :=
  { x := s.x, pc := s.pc, zf := s.zf, sf := s.sf, status := s.status, hs := s.hs, code := haltCode s.hs }

end Sys2Proof.Machine
end

