-- ==== Sys2Proof/Machine/Loader.lean ====
section
/-! DEFINITION. The loader (R60 to R67): from the lines of a program to the instruction store and the label table, and
the reset state of a loaded program (R230, R233). -/

namespace Sys2Proof.Machine

/-! ## Splitting an instruction line -/

/-- Put a character before the first token of a split. -/
def consHead (c : Char) : List Text → List Text
  | [] => [[c]]
  | t :: rest => (c :: t) :: rest

/-- The loop of `split_literal` (R66): a comma ends a token, and exactly one character after it is discarded. -/
def splitDiscarding : Text → List Text
  | [] => [[]]
  | [c] => if c = ',' then [[], []] else [[c]]
  | c :: d :: rest => if c = ',' then [] :: splitDiscarding rest else consHead c (splitDiscarding (d :: rest))

/-- `split_literal(T)` (R66). -/
def splitLiteral (t : Text) : List Text := if t = [] then [] else splitDiscarding t

/-- A space or a tab (R65, R67). -/
def isBlank (c : Char) : Bool := decide (c = ' ') || decide (c = '\t')

/-- Split at every comma (R67). -/
def splitCommas : Text → List Text
  | [] => [[]]
  | c :: rest => if c = ',' then [] :: splitCommas rest else consHead c (splitCommas rest)

/-- Remove leading and trailing spaces and tabs (R67). -/
def trimBlanks (t : Text) : Text := ((t.dropWhile isBlank).reverse.dropWhile isBlank).reverse

/-- Operand splitting under `SEP = trim` (R67). -/
def splitTrim (t : Text) : List Text := if t.all isBlank = true then [] else (splitCommas t).map trimBlanks

/-- Not a space (R65). -/
def notSpace (c : Char) : Bool := decide (c ≠ ' ')

/-- Neither a space nor a tab (R65). -/
def notBlank (c : Char) : Bool := !isBlank c

/-- The mnemonic and the operand tokens of an instruction line (R65 to R67). Under `SEP = trim` a line of spaces and tabs
only has no mnemonic in R65's terms; it gets the empty mnemonic and no operands (DESIGN CHOICE, assumption log entry 17). -/
def splitLine (sep : Separator) (line : Text) : Text × List Text :=
  match sep with
  | .literal => (line.takeWhile notSpace, splitLiteral ((line.dropWhile notSpace).drop 1))
  | .trim =>
    ((line.dropWhile isBlank).takeWhile notBlank, splitTrim ((line.dropWhile isBlank).dropWhile notBlank))

/-- The store entry of an instruction line (R64). -/
def entryOfLine (sep : Separator) (line : Text) : Entry := .text (splitLine sep line).1 (splitLine sep line).2

/-! ## Labels -/

/-- A label line ends with a colon (R61). -/
def isLabelLine (line : Text) : Bool := decide (line.getLast? = some ':')

/-- The name of a label line: the line without its last colon (R61). -/
def labelName (line : Text) : Text := line.dropLast

/-- A label line with an empty name or a colon in its name (R61). -/
def badLabelLine (line : Text) : Bool :=
  isLabelLine line && ((labelName line).isEmpty || (labelName line).contains ':')

/-- The instruction lines, in order (R64). -/
def instructionLines (lines : List Text) : List Text := lines.filter fun l => !isLabelLine l

/-- The label table of the lines that follow `c` instruction lines: each label is recorded with `c − 1` (R62). -/
def labelsFrom (c : Nat) : List Text → List (Text × Int)
  | [] => []
  | l :: rest => if isLabelLine l then (labelName l, (c : Int) - 1) :: labelsFrom c rest else labelsFrom (c + 1) rest

/-! ## Loading and booting -/

/-- Why the loader refuses a program as a whole. -/
inductive LoadRefusal where
  /-- A label line breaks the grammar (R61, D9). -/
  | labelGrammar
  /-- More than `NMAX` instruction lines (R64, D19). -/
  | tooLong
  deriving DecidableEq, Repr

/-- What loading gives (R60, R61, R63, R64). -/
inductive Loaded where
  | ok (imem : List Entry) (labels : List (Text × Int))
  /-- `DuplicateLabel` (R63, R205). -/
  | duplicateLabel
  | refused (r : LoadRefusal)
  deriving DecidableEq, Repr

/-- The loader (R60 to R67). -/
def load (sep : Separator) (lines : List Text) : Loaded :=
  if lines.any badLabelLine then .refused .labelGrammar
  else if (instructionLines lines).length > maxInstructions then .refused .tooLong
  else if ((labelsFrom 0 lines).map Prod.fst).Nodup then
    .ok ((instructionLines lines).map (entryOfLine sep)) (labelsFrom 0 lines)
  else .duplicateLabel

/-- What loading and reset give: a state, or no run at all (R230, R233). -/
inductive Booted where
  | started (s : State)
  | refused (r : LoadRefusal)
  deriving DecidableEq, Repr

/-- Load a program and reset (R230, R232, R233). -/
def boot (p : Params) (lines : List Text) : Booted :=
  match load p.sep lines with
  | .ok imem labels => .started (State.resetWith p imem labels .run)
  | .duplicateLabel => .started (State.resetWith p [] [] (.fault .duplicateLabel 0#32 none))
  | .refused r => .refused r

end Sys2Proof.Machine
end

