-- ==== Sys2Proof/Safety.lean ====
section
/-! DEFINITION. What a state reached by a run looks like (`State.Inv`): the claims about runs are stated with it. -/

namespace Sys2Proof.Machine

/-- A label value in `[−1, n − 1]` (R30). -/
def inLabelRange (n : Nat) (v : Int) : Prop := -1 ≤ v ∧ v ≤ (n : Int) - 1

/-- The label values an instruction holds. -/
def Target.values : Target → List Word
  | .label v => [v]
  | .undefined => []

/-- The label values an operand list holds. -/
def targetValues : Operands Target → List Word
  | .zero => []
  | .one a => Target.values a
  | .two a b => Target.values a ++ Target.values b
  | .three a b c => Target.values a ++ Target.values b ++ Target.values c
  | .fourPlus a b c => Target.values a ++ Target.values b ++ Target.values c

/-- The label values of an instruction; only the six control-transfer instructions hold any (R79). -/
def labelValues : Instr → List Word
  | .mov _ => []
  | .cmp _ => []
  | .test _ => []
  | .add _ => []
  | .sub _ => []
  | .mul _ => []
  | .div _ => []
  | .and _ => []
  | .or _ => []
  | .xor _ => []
  | .not _ => []
  | .jmp ops => targetValues ops
  | .je ops => targetValues ops
  | .jl ops => targetValues ops
  | .jle ops => targetValues ops
  | .jg ops => targetValues ops
  | .jge ops => targetValues ops

/-- The operand index and the parameters under which each error kind is recorded (R201). -/
def faultShape (p : Params) (k : ErrorKind) (o : Option OperandIndex) : Prop :=
  match k with
  | .arityError => o = none
  | .operandError => o ≠ none
  | .divideByZero => o = some 1
  | .unknownLabel => o = some 0
  | .duplicateLabel => o = none
  | .unknownOperation => o = none
  | .overflow => o = none ∧ p.ovf = .fault

/-- The recorded fault names the instruction at `pc` and has the shape of R201 (R31, R209). -/
def State.haltConsistent (s : State) : Prop :=
  match s.hs with
  | .run => True
  | .fault k fpc o => fpc = s.pc ∧ faultShape s.params k o

/-- Every label value of a loaded instruction lies in `[−1, N − 1]` (R30, R79). -/
def State.labelsInRange (s : State) : Prop :=
  (∀ n v, (n, v) ∈ s.labels → inLabelRange s.count v) ∧
    ∀ w i v, Entry.word w ∈ s.imem → Sys2Proof.decode w = .known i → v ∈ labelValues i → inLabelRange s.count v.toInt

/-- The invariant of a run: the flags are never both true (R28), the store holds at most `NMAX` instructions (R29), label
names are unique (R30), label values are in range (R30), `pc` never exceeds `N` (R111), and a recorded fault names the
instruction at `pc` (R209). -/
structure State.Inv (s : State) : Prop where
  flags : ¬(s.zf = true ∧ s.sf = true)
  store : s.imemWf
  names : (s.labels.map Prod.fst).Nodup
  labels : s.labelsInRange
  pc : s.pc.toNat ≤ s.count
  halt : s.haltConsistent

end Sys2Proof.Machine
end

