-- ==== Sys2Proof/Certificates/Slice0/Obligations.lean ====
section
/-! DEFINITION. The statements for the provers, from the numbered rules of spec/, after the words they share. -/

namespace Sys2Proof.Claims

open Sys2Proof.Machine

/-! ## Words the statements share -/

/-- The value of a source operand: a register's or a literal's; a bad operand has none (R104). -/
def srcValue (s : State) : Src → Option Word
  | .reg d => some s.x[d]
  | .lit v => some v
  | .bad => none

/-- An exact result that fits 32 bits (R10). -/
abbrev Fits (n : Int) : Prop := -2147483648 ≤ n ∧ n ≤ 2147483647

/-- `s` after an instruction that completes with recent result `res`, registers `x` and next index `pc`; the halt state,
the two stores and the parameters are those of `s` (R108 to R110). -/
def completed (s : State) (x : Vector Word 10) (res : Word) (pc : Pc) : State :=
  { s with x := x, zf := res == 0#32, sf := res.msb, pc := pc }

/-- `s` after a fatal error: only the halt state is written (R209). -/
def faulted (s : State) (k : ErrorKind) (o : Option OperandIndex) : State := { s with hs := .fault k s.pc o }

/-- The number of operands, 4 standing for four or more. -/
def operandCount {α : Type} : Operands α → Nat
  | .zero => 0
  | .one _ => 1
  | .two _ _ => 2
  | .three _ _ _ => 3
  | .fourPlus _ _ _ => 4

/-- The operands kept of an operand list: the first three. -/
def keptOperands {α : Type} : Operands α → List α
  | .zero => []
  | .one a => [a]
  | .two a b => [a, b]
  | .three a b c => [a, b, c]
  | .fourPlus a b c => [a, b, c]

/-- An operand list holds the operands `xs` as far as execution reads them: the count up to "four or more", and the first
three in order (R84). -/
def OperandsAre {α : Type} (ops : Operands α) (xs : List α) : Prop :=
  operandCount ops = min xs.length 4 ∧ keptOperands ops = xs.take 3

/-- The position of the destination, the destination and the two sources of the two- and three-operand forms (R106). -/
def aluParts : Operands Src → Option (OperandIndex × Src × Src × Src)
  | .two a b => some (0, a, a, b)
  | .three a b c => some (2, c, a, b)
  | .zero => none
  | .one _ => none
  | .fourPlus _ _ _ => none

/-- The operand count and operand errors of the seven two- or three-operand instructions, in the order of R208: the count,
the destination, source 0, source 1. -/
def AluErrors (mk : Operands Src → Instr) : Prop :=
  ∀ s ops,
    (aluParts ops = none → exec (mk ops) s = .next (faulted s .arityError none)) ∧
      ∀ k c a b, aluParts ops = some (k, c, a, b) →
        ((∀ d, c ≠ .reg d) → exec (mk ops) s = .next (faulted s .operandError (some k))) ∧
          ∀ d, c = .reg d →
            (srcValue s a = none → exec (mk ops) s = .next (faulted s .operandError (some 0))) ∧
              (srcValue s a ≠ none → srcValue s b = none →
                exec (mk ops) s = .next (faulted s .operandError (some 1)))

/-- The whole rule of `add`, `sub` and `mul`: opcode number, errors, and for operands that resolve, the word result in the
destination and the flags of that result, or `Overflow` where `OVF = fault` and the exact result does not fit. -/
def OverflowingRule (mk : Operands Src → Instr) (opc : BitVec 5) (exact : Int → Int → Int)
    (word : Word → Word → Word) : Prop :=
  (∀ ops, opcField (encode (mk ops)) = opc) ∧ AluErrors mk ∧
    ∀ s ops k d a b va vb, aluParts ops = some (k, .reg d, a, b) → srcValue s a = some va → srcValue s b = some vb →
      (s.params.ovf = .wrap ∨ Fits (exact va.toInt vb.toInt) →
        exec (mk ops) s = .next (completed s (s.x.set d (word va vb)) (word va vb) (s.pc + 1#32))) ∧
        (s.params.ovf = .fault → ¬Fits (exact va.toInt vb.toInt) →
          exec (mk ops) s = .next (faulted s .overflow none))

/-- The whole rule of `and`, `or` and `xor`, which never overflow. -/
def BitwiseRule (mk : Operands Src → Instr) (opc : BitVec 5) (word : Word → Word → Word) : Prop :=
  (∀ ops, opcField (encode (mk ops)) = opc) ∧ AluErrors mk ∧
    ∀ s ops k d a b va vb, aluParts ops = some (k, .reg d, a, b) → srcValue s a = some va → srcValue s b = some vb →
      exec (mk ops) s = .next (completed s (s.x.set d (word va vb)) (word va vb) (s.pc + 1#32))

/-- The operand count and operand errors of the comparison family (R140, R141). -/
def CompareErrors (mk : Operands Src → Instr) : Prop :=
  ∀ s ops,
    (operandCount ops ≠ 2 → exec (mk ops) s = .next (faulted s .arityError none)) ∧
      ∀ a b, ops = .two a b →
        (srcValue s a = none → exec (mk ops) s = .next (faulted s .operandError (some 0))) ∧
          (srcValue s a ≠ none → srcValue s b = none → exec (mk ops) s = .next (faulted s .operandError (some 1)))

/-- The opcode number, the operand count and the label error of a control-transfer instruction; the error does not depend
on the flags (R103, R176). -/
def JumpErrors (mk : Operands Target → Instr) (opc : BitVec 5) : Prop :=
  (∀ ops, opcField (encode (mk ops)) = opc) ∧
    ∀ s, (∀ ops, operandCount ops ≠ 1 → exec (mk ops) s = .next (faulted s .arityError none)) ∧
      exec (mk (.one .undefined)) s = .next (faulted s .unknownLabel (some 0))

/-- A taken jump to a label of value `v` that reports `z` as the zero flag: execution goes on at `v + 1` (R110, R176). -/
def jumped (s : State) (z : Bool) (v : Word) : State := { s with zf := z, sf := false, pc := v + 1#32 }

/-- A jump that is not taken (R178). -/
def notJumped (s : State) : State := { s with zf := true, sf := false, pc := s.pc + 1#32 }

/-- A conditional jump that jumps exactly where `cond ZF SF` holds, reporting 1 if jumped else 0. -/
def JumpsWhen (mk : Operands Target → Instr) (cond : Bool → Bool → Bool) : Prop :=
  ∀ s v,
    (cond s.zf s.sf = true → exec (mk (.one (.label v))) s = .next (jumped s false v)) ∧
      (cond s.zf s.sf = false → exec (mk (.one (.label v))) s = .next (notJumped s))

/-- The only register an instruction may write (R21). -/
def destOf : Instr → Option RegIndex
  | .mov (.two (.reg d) _) => some d
  | .not (.one (.reg d)) => some d
  | .add ops | .sub ops | .mul ops | .div ops | .and ops | .or ops | .xor ops =>
    match aluParts ops with
    | some (_, .reg d, _, _) => some d
    | _ => none
  | _ => none

/-- The operand counts an instruction accepts, as R103 lists them. -/
def acceptsCount : Instr → Prop
  | .mov ops | .cmp ops | .test ops => operandCount ops = 2
  | .add ops | .sub ops | .mul ops | .div ops | .and ops | .or ops | .xor ops =>
    operandCount ops = 2 ∨ operandCount ops = 3
  | .not ops => operandCount ops = 1
  | .jmp ops | .je ops | .jl ops | .jle ops | .jg ops | .jge ops => operandCount ops = 1

/-- The five instructions that read a flag (R26). -/
def readsFlags : Instr → Prop
  | .je _ | .jl _ | .jle _ | .jg _ | .jge _ => True
  | _ => False

/-- The instructions that can raise each kind when executed (R201). -/
def raisedBy (k : ErrorKind) (i : Instr) : Prop :=
  match k with
  | .arityError => True
  | .operandError => i.opc.toNat ≤ 10
  | .divideByZero => i.opc = 6#5
  | .unknownLabel => 11 ≤ i.opc.toNat
  | .duplicateLabel => False
  | .unknownOperation => False
  | .overflow => i.opc = 3#5 ∨ i.opc = 4#5 ∨ i.opc = 5#5 ∨ i.opc = 6#5 ∨ i.opc = 1#5

/-- An outcome with its next state changed by `f`. -/
def mapNext (f : State → State) : Host.Outcome State Fault Refusal → Host.Outcome State Fault Refusal
  | .next t => .next (f t)
  | .fault r => .fault r
  | .refused r => .refused r

/-- The instruction the decoder reads from an entry, in the state that holds it. -/
def decodes (s : State) (e : Entry) : Decoded := decodeEntry s.params.litForm s.labels e

/-! ## Words about program text -/

/-- A label line: its last character is a colon (R61). -/
abbrev IsLabel (l : Text) : Prop := l.getLast? = some ':'

/-- The number of instruction lines among some lines (R62, R64). -/
def instrCount (lines : List Text) : Nat := lines.countP fun l => decide (l.getLast? ≠ some ':')

/-- A mnemonic or token of canonical syntax (R68). -/
abbrev Plain (t : Text) : Prop := t ≠ [] ∧ ∀ c ∈ t, c ≠ ' ' ∧ c ≠ '\t' ∧ c ≠ ','

/-- The canonical line of a mnemonic and its tokens (R68). -/
def canonicalLine (mn : Text) : List Text → Text
  | [] => mn
  | t :: ts => mn ++ [' '] ++ [',', ' '].intercalate (t :: ts)

/-- A text without leading and trailing spaces and tabs (R67). -/
def trimmed (t : Text) : Text := (t.dropWhile fun c => c = ' ' ∨ c = '\t').rdropWhile fun c => c = ' ' ∨ c = '\t'

/-- A space or a tab (R65, R67). -/
abbrev Blank (c : Char) : Prop := c = ' ' ∨ c = '\t'

/-- Every label line keeps the grammar: a name, with no colon in it (R61). -/
def LabelsKeepTheGrammar (lines : List Text) : Prop := ∀ k ∈ lines, IsLabel k → k.dropLast ≠ [] ∧ ':' ∉ k.dropLast

/-- No two label lines are equal (R63). -/
def LabelsAreDistinct (lines : List Text) : Prop := (lines.filter fun l => decide (IsLabel l)).Nodup

/-- A non-empty run of ASCII digits (R69). -/
abbrev AllDigits (t : Text) : Prop := t ≠ [] ∧ ∀ c ∈ t, 48 ≤ c.toNat ∧ c.toNat ≤ 57

/-- The decimal value of a run of digits (R70). -/
def decimalValue (t : Text) : Nat := Nat.ofDigits 10 (t.reverse.map fun c => c.toNat - 48)

/-- The 17 mnemonics in the order of their opcode numbers (R2, R76). -/
def mnemonics : List Text :=
  ["mov".toList, "cmp".toList, "test".toList, "add".toList, "sub".toList, "mul".toList, "div".toList, "and".toList,
    "or".toList, "xor".toList, "not".toList, "jmp".toList, "je".toList, "jl".toList, "jle".toList, "jg".toList,
    "jge".toList]

/-- The mnemonics whose operands are registers and literals, each with its instruction (R69, R76). -/
def srcMnemonics : List (Text × (Operands Src → Instr)) :=
  [("mov".toList, .mov), ("cmp".toList, .cmp), ("test".toList, .test), ("add".toList, .add), ("sub".toList, .sub),
    ("mul".toList, .mul), ("div".toList, .div), ("and".toList, .and), ("or".toList, .or), ("xor".toList, .xor),
    ("not".toList, .not)]

/-- The mnemonics whose operand is a label name, each with its instruction (R73, R76). -/
def jumpMnemonics : List (Text × (Operands Target → Instr)) :=
  [("jmp".toList, .jmp), ("je".toList, .je), ("jl".toList, .jl), ("jle".toList, .jle), ("jg".toList, .jg),
    ("jge".toList, .jge)]

/-- Operand position `k` of a word, with its kind and value (R78). -/
def IsPosition (w : Diw) (k : Nat) (c : Slot) : Prop := k = 0 ∧ c = slot0 w ∨ k = 1 ∧ c = slot1 w ∨ k = 2 ∧ c = slot2 w

/-- Every bad operand of a word has the value 0, as R79 fixes it; R83 does not name the others (log entry 3). -/
def BadValuesAreZero (w : Diw) : Prop :=
  ∀ k c, IsPosition w k c → k < (nopsField w).toNat → c.kind = 3#2 → c.value = 0#32

/-- The words R83 names as ill-formed: a field no loader writes. Positions at or above the operand count are unused. -/
def NamedIllFormed (w : Diw) : Prop :=
  5 ≤ (nopsField w).toNat ∨ rsvField w ≠ 0#18 ∨
    ∃ k c, IsPosition w k c ∧
      ((nopsField w).toNat ≤ k ∧ (c.kind ≠ 0#2 ∨ c.value ≠ 0#32) ∨
        k < (nopsField w).toNat ∧
          (c.kind = 2#2 ∧ ((opcField w).toNat ≤ 10 ∨ opcField w = 31#5) ∨
            (c.kind = 0#2 ∨ c.kind = 1#2) ∧ 11 ≤ (opcField w).toNat ∧ (opcField w).toNat ≤ 16 ∨
              c.kind = 0#2 ∧ 9 < c.value.toNat ∨ c.kind = 1#2 ∧ 2 ^ 31 ≤ c.value.toNat))

end Sys2Proof.Claims

open Sys2Proof Sys2Proof.Machine Sys2Proof.Claims

/-! ## Decoding and encoding -/

/-- R86: the four example words are the words of their texts, and the decoder reads those instructions from them. -/
def Obligations.ExampleWordsAreReadRight : Prop :=
  (∀ labels, diwOfText .multi labels "mov".toList ["r0".toList, "5".toList] = 0x00000000000000050000000000000440#128) ∧
    decode 0x00000000000000050000000000000440#128 = .known (.mov (.two (.reg 0) (.lit 5#32))) ∧
    (∀ labels, diwOfText .multi labels "add".toList ["r0".toList, "1".toList, "r0".toList] =
      0x00000000000000010000000000000463#128) ∧
    decode 0x00000000000000010000000000000463#128 = .known (.add (.three (.reg 0) (.lit 1#32) (.reg 0))) ∧
    diwOfText .multi [("loop".toList, 0)] "jl".toList ["loop".toList] = 0x0000000000000000000000000000022d#128 ∧
    decode 0x0000000000000000000000000000022d#128 = .known (.jl (.one (.label 0#32))) ∧
    diwOfText .multi [("start".toList, -1)] "jmp".toList ["start".toList] = 0x0000000000000000ffffffff0000022b#128 ∧
    decode 0x0000000000000000ffffffff0000022b#128 = .known (.jmp (.one (.label 0xffffffff#32)))

/-- Every well-formed instruction is read back from its word (R78 to R80). -/
def Obligations.DecodeInvertsEncode : Prop := ∀ i : Instr, i.wf = true → decode (encode i) = .known i

/-- A word read as an instruction is that instruction's word, with no bit dropped (R78 to R80, R83; that a
bad operand with a non-zero value is refused is the model's reading, log entry 3). -/
def Obligations.EncodeInvertsDecode : Prop := ∀ (w : Diw) (i : Instr), decode w = .known i → i.wf = true ∧ encode i = w

/-- Bits 4:0 alone select the operation: an instruction is read only where the word under the mask 0x1F is its opcode
number, and a word is unknown only where that number is 17 or more (R81, R82). -/
def Obligations.OpcodeFieldSelectsOperation : Prop :=
  ∀ w : Diw,
    (∀ i, decode w = .known i → w &&& 0x1F#128 = BitVec.ofNat 128 i.opc.toNat) ∧
      (decode w = .unknown → 17 ≤ (w &&& 0x1F#128).toNat)

/-- The loader writes no word with a field combination R83 names; such a word is refused, and so is a step that fetches it
(R82, R83). For `OPC` 17 to 30 R82 taken alone would make such a word unknown: that R83 comes first there is the model's
reading (log entry 5); that the refusal is the fetching step's is its choice (log entry 18). -/
def Obligations.IllFormedWordsAreRefused : Prop :=
  (∀ form labels mn ops, ¬NamedIllFormed (diwOfText form labels mn ops)) ∧
    ∀ w, NamedIllFormed w →
      ∃ r, decode w = .illFormed r ∧
        ∀ s : State, s.hs = .run → s.fetch = some (.word w) → step s = .refused (.illFormedWord r)

/-- The loader writes 31 for an unknown mnemonic and never writes 17 to 30; a word with an opcode of 17 or more is read as
unknown, and executing it raises `UnknownOperation` (R82). Left out are the words R83 names as ill-formed (log entry 5) and
those with a bad operand of non-zero value (log entry 3). -/
def Obligations.ReservedOpcodesAreUnknownOperations : Prop :=
  (∀ form labels mn ops, mn ∉ mnemonics → opcField (diwOfText form labels mn ops) = 31#5) ∧
    (∀ form labels mn ops, mn ∈ mnemonics → (opcField (diwOfText form labels mn ops)).toNat ≤ 16) ∧
    ∀ w : Diw, 17 ≤ (opcField w).toNat → ¬NamedIllFormed w → BadValuesAreZero w →
      decode w = .unknown ∧
        ∀ s : State, s.hs = .run → s.fetch = some (.word w) → step s = .next (faulted s .unknownOperation none)

/-! ## Program text and the loader -/

/-- R84: a step of a loaded state and a step of the same state at the DIW level, where no label table is left, agree in
every field and in every stop. -/
def Obligations.WordsExecuteAsTheirTexts : Prop := ∀ s : State, step s.toWords = mapNext State.toWords (step s)

/-- Each of the 17 mnemonics is dispatched to the operation of its opcode number, operand `k` of the instruction read is
the class of token `k`, or for a jump its label lookup, and a text instruction with any other mnemonic raises
`UnknownOperation` with no operand (R69, R72, R73, R84, R102). -/
def Obligations.MnemonicsDispatchExactly : Prop :=
  (∀ form labels ops (n : Fin 17), ∃ i, decodeText form labels (mnemonics[n.val]'n.isLt) ops = .known i ∧
      i.opc.toNat = n.val) ∧
    (∀ q ∈ srcMnemonics, ∀ form labels toks, ∃ ops, decodeText form labels q.1 toks = .known (q.2 ops) ∧
      OperandsAre ops (toks.map (classify form))) ∧
    (∀ q ∈ jumpMnemonics, ∀ form labels toks, ∃ ops, decodeText form labels q.1 toks = .known (q.2 ops) ∧
      OperandsAre ops (toks.map (classifyLabel labels))) ∧
    ∀ (s : State) mn ops, s.hs = .run → s.fetch = some (.text mn ops) → mn ∉ mnemonics →
      step s = .next (faulted s .unknownOperation none)

/-- A jump's operand is its table value as a 32-bit word where the table has the name, and undefined where it has not; in a
loaded program a name with no label line is undefined, and each of the six jumps to it raises `UnknownLabel` with operand 0
(R73, R79, R176). -/
def Obligations.LabelOperandsAreLookedUp : Prop :=
  (∀ labels name v, (labels.map Prod.fst).Nodup → (name, v) ∈ labels →
      classifyLabel labels name = .label (BitVec.ofInt 32 v)) ∧
    (∀ labels name, (∀ v, (name, v) ∉ labels) → classifyLabel labels name = .undefined) ∧
    ∀ p lines s0 name, boot p lines = .started s0 → s0.hs = .run → name ++ [':'] ∉ lines →
      classifyLabel s0.labels name = .undefined ∧
        ∀ q ∈ jumpMnemonics, ∀ s : State, s.hs = .run → s.labels = s0.labels → s.fetch = some (.text q.1 [name]) →
          step s = .next (faulted s .unknownLabel (some 0))

/-- The word of a text instruction is read as what its text is read as: the same operation, operand count, classes and
values, or no operation (R79, R81, R84). -/
def Obligations.TextWordsAreReadAsTheirTexts : Prop :=
  ∀ form labels mn toks, decode (diwOfText form labels mn toks) = decodeText form labels mn toks

/-- The register tokens are exactly `r` with one ASCII digit, which is the index (R69). -/
def Obligations.RegisterTokensAreExact : Prop :=
  ∀ form tok (d : RegIndex), classify form tok = .reg d ↔ tok = ['r', Char.ofNat (48 + d.val)]

/-- R70: a token is a literal exactly if it is a non-empty run of digits of value at most 2^31 − 1 and, under
`LIT_FORM = single`, one character long; its word is its value. -/
def Obligations.LiteralTokensAreExact : Prop :=
  ∀ form tok (v : Word), classify form tok = .lit v ↔
    AllDigits tok ∧ decimalValue tok ≤ 2147483647 ∧ (form = .single → tok.length = 1) ∧ v.toNat = decimalValue tok

/-- R68: a canonical line is split into its mnemonic and tokens under both separator modes. -/
def Obligations.CanonicalLinesSplitAlike : Prop :=
  ∀ sep mn toks, Plain mn → (∀ t ∈ toks, Plain t) → splitLine sep (canonicalLine mn toks) = (mn, toks)

/-- The mnemonic and operand text of any line (R65). Under `SEP = literal` the mnemonic ends at the first space, and a line
without a space is all mnemonic, a tab being part of it. Under `SEP = trim` it is the first run of characters that are no
blanks, after any leading blanks; a line of blanks only has the empty mnemonic and no operands (D8 for the empty line; for
others the model's choice, log entry 17). -/
def Obligations.LinesSplitAtTheirMnemonic : Prop :=
  (∀ mn t : Text, ' ' ∉ mn → splitLine .literal (mn ++ ' ' :: t) = (mn, splitLiteral t)) ∧
    (∀ line : Text, ' ' ∉ line → splitLine .literal line = (line, [])) ∧
    (∀ blanks mn t : Text, (∀ c ∈ blanks, Blank c) → mn ≠ [] → (∀ c ∈ mn, ¬Blank c) → (∀ c, t.head? = some c → Blank c) →
      splitLine .trim (blanks ++ mn ++ t) = (mn, splitTrim t)) ∧
    ∀ line : Text, (∀ c ∈ line, Blank c) → splitLine .trim line = ([], [])

/-- R66: the literal split ends a token at each comma, discards exactly one character after it, and gives the empty token
where the text ends there. -/
def Obligations.LiteralSplitDiscardsOneCharacter : Prop :=
  splitLiteral [] = [] ∧
    ∀ tok : Text, ',' ∉ tok →
      (tok ≠ [] → splitLiteral tok = [tok]) ∧ splitLiteral (tok ++ [',']) = [tok, []] ∧
        ∀ c, splitLiteral (tok ++ [',', c]) = [tok, []] ∧
          ∀ rest, rest ≠ [] → splitLiteral (tok ++ [',', c] ++ rest) = tok :: splitLiteral rest

/-- R67: under `SEP = trim` a blank text has no operands, and any other is split at every comma, each piece losing its
leading and trailing spaces and tabs. -/
def Obligations.TrimSplitTrimsPieces : Prop :=
  (∀ t : Text, (∀ c ∈ t, c = ' ' ∨ c = '\t') → splitTrim t = []) ∧
    ∀ pieces : List Text, pieces ≠ [] → (∀ p ∈ pieces, ',' ∉ p) →
      (∃ c ∈ [','].intercalate pieces, c ≠ ' ' ∧ c ≠ '\t') →
      splitTrim ([','].intercalate pieces) = pieces.map trimmed

/-- R62: a label is recorded with the number of instruction lines before it, minus one, which lies in [−1, N − 1]. -/
def Obligations.LabelValuesCountInstructions : Prop :=
  ∀ sep before l after imem labels, load sep (before ++ l :: after) = .ok imem labels → IsLabel l →
    lookupLabel labels l.dropLast = some ((instrCount before : Int) - 1) ∧
      inLabelRange imem.length ((instrCount before : Int) - 1)

/-- Every line that is no label line, the empty line among them, is the instruction at the index of the instruction lines
before it (R64). -/
def Obligations.InstructionLinesAreDense : Prop :=
  ∀ sep before l after imem labels, load sep (before ++ l :: after) = .ok imem labels →
    imem.length = instrCount (before ++ l :: after) ∧
      (¬IsLabel l → imem[instrCount before]? = some (.text (splitLine sep l).1 (splitLine sep l).2))

/-- R63: two label lines of one name fail the load with `DuplicateLabel`, and no instruction executes. The premises keep
out the programs the loader refuses as a whole (R61, R64; that refusal comes first is the model's reading, log entry 10). -/
def Obligations.DuplicateLabelFailsTheLoad : Prop :=
  ∀ p before l between m after, IsLabel l → IsLabel m → l = m →
    (∀ k ∈ before ++ l :: between ++ m :: after, IsLabel k → k.dropLast ≠ [] ∧ ':' ∉ k.dropLast) →
    instrCount (before ++ l :: between ++ m :: after) ≤ maxInstructions →
    ∃ s, boot p (before ++ l :: between ++ m :: after) = .started s ∧ s.hs = .fault .duplicateLabel 0#32 none ∧
      step s = .fault .coreFaulted

/-- A program with a label line that breaks the grammar is refused as a whole (R61); that this comes before a duplicate label
is the model's reading (log entry 10). -/
def Obligations.BadLabelLinesAreRefused : Prop :=
  ∀ p lines l, l ∈ lines → IsLabel l → (l.dropLast = [] ∨ ':' ∈ l.dropLast) → boot p lines = .refused .labelGrammar

/-- A program whose label lines keep the grammar starts, with `HS = RUN` and one store entry for each instruction line, if
its labels are distinct and it has at most `NMAX` instruction lines; with more it is refused, which for one with equal labels
too is the model's reading (log entry 10) (R61, R63, R64, R230, R233). -/
def Obligations.GrammaticalProgramsStartUnlessTooLong : Prop :=
  ∀ p lines, LabelsKeepTheGrammar lines →
    (instrCount lines ≤ maxInstructions → LabelsAreDistinct lines →
      ∃ s, boot p lines = .started s ∧ s.hs = .run ∧ s.params = p ∧ s.imem.length = instrCount lines) ∧
      (maxInstructions < instrCount lines → boot p lines = .refused .tooLong)

/-- R230: reset leaves every data register 0, `pc` 0, both flags false and `HS` at `RUN`, or after a failed load at
`FAULT(DuplicateLabel, 0, none)`. -/
def Obligations.BootResetsTheCore : Prop :=
  ∀ p lines s, boot p lines = .started s →
    (∀ d : RegIndex, s.x[d] = 0#32) ∧ s.pc = 0#32 ∧ s.zf = false ∧ s.sf = false ∧
      ((load p.sep lines = .duplicateLabel ∧ s.hs = .fault .duplicateLabel 0#32 none) ∨
        ∃ imem labels, load p.sep lines = .ok imem labels ∧ s.imem = imem ∧ s.labels = labels ∧ s.hs = .run)

/-- Whatever program, table, parameters and halt state a reset is given, it leaves every data register 0,
`pc` 0 and both flags false (R22, R25, R27); and the model's `State.reset` is the boot of the empty program under the
defaults, which is the model's choice (log entry 9). -/
def Obligations.ResetClearsRegistersAndFlags : Prop :=
  (∀ p imem labels hs,
      (∀ d : RegIndex, (State.resetWith p imem labels hs).x[d] = 0#32) ∧ (State.resetWith p imem labels hs).pc = 0#32 ∧
        (State.resetWith p imem labels hs).zf = false ∧ (State.resetWith p imem labels hs).sf = false) ∧
    boot Params.default [] = .started State.reset

/-- In a loaded program, `jmp` to a label goes on at the number of instruction lines before the label line: at the
instruction that textually follows it, index 0 for a label at the top (R62, R170, R237). -/
def Obligations.JumpLandsAfterItsLabel : Prop :=
  ∀ p before l after s0 (s : State), boot p (before ++ l :: after) = .started s0 → s0.hs = .run → IsLabel l →
    exec (.jmp (.one (classifyLabel s0.labels l.dropLast))) s =
      .next { s with zf := false, sf := false, pc := BitVec.ofNat 32 (instrCount before) } ∧
    instrCount before ≤ maxInstructions

/-! ## The step -/

/-- Where the core runs and the entry at `pc` decodes to an instruction, the step is that instruction's meaning; the step
adds nothing around it, since the commit of a meaning advances `pc` (R101, R102, R115). -/
def Obligations.StepRunsTheDecodedInstruction : Prop :=
  ∀ (s : State) e i, s.hs = .run → s.imem[s.pc.toNat]? = some e → decodes s e = .known i → step s = exec i s

/-- A word the host places is what the next step runs: the model's own interface (log entry 8). -/
def Obligations.PlacedWordRunsNext : Prop :=
  ∀ (s : State) (w : Nat) i, w < 2 ^ 128 → decode (BitVec.ofNat 128 w) = .known i →
    step (s.withFetchWord 128 w) = exec i (s.withFetchWord 128 w) ∧ (s.withFetchWord 128 w).x = s.x ∧
      (s.withFetchWord 128 w).pc = s.pc ∧ (s.withFetchWord 128 w).zf = s.zf ∧ (s.withFetchWord 128 w).sf = s.sf

/-- There is a step exactly where `HS = RUN` and `pc < N` (R100): there the step answers a next state, unless the entry at
`pc` is an ill-formed word, which is refused (R83; log entries 3 and 5 for which words are, 18 for
the refusal standing here). Elsewhere the core stops, at the
end of the run or faulted, which the interface says by a stop (log entry 6). -/
def Obligations.StepExistsExactlyWhileRunning : Prop :=
  ∀ s : State,
    (s.hs = .run → s.pc.toNat < s.count → ∃ e, s.imem[s.pc.toNat]? = some e ∧
      ((∀ w r, e = .word w → decode w ≠ .illFormed r) → ∃ t, step s = .next t) ∧
        ∀ w r, e = .word w → decode w = .illFormed r → step s = .refused (.illFormedWord r)) ∧
      (s.hs = .run → s.count ≤ s.pc.toNat → step s = .fault .runEnded) ∧
      (s.hs ≠ .run → step s = .fault .coreFaulted)

/-- Every instruction has a next state in every state: it completes or takes its fatal error (R114, R115). -/
def Obligations.EveryInstructionHasANextState : Prop := ∀ (i : Instr) (s : State), ∃ t, exec i s = .next t

/-- R209: a fatal error writes the halt state with the faulting index and nothing else. -/
def Obligations.FatalErrorsArePrecise : Prop :=
  ∀ s t : State, step s = .next t → t.hs ≠ .run → ∃ k o, t = { s with hs := .fault k s.pc o }

/-- The codes of the error kinds; an error an instruction raises is of a kind that instruction can raise, with the operand
index the table records, `Overflow` only under `OVF = fault`; the loader raises only `DuplicateLabel` (R201). -/
def Obligations.ErrorKindsFollowTheTable : Prop :=
  (haltCode .run = 0 ∧
      [ErrorKind.arityError, .operandError, .divideByZero, .unknownLabel, .duplicateLabel, .unknownOperation,
        .overflow].map errorCode = [1, 2, 3, 4, 5, 6, 7]) ∧
    (∀ i (s t : State) k p o, s.hs = .run → exec i s = .next t → t.hs = .fault k p o →
      raisedBy k i ∧ faultShape s.params k o) ∧
    ∀ p lines s k f o, boot p lines = .started s → s.hs = .fault k f o → k = .duplicateLabel ∧ o = none

/-- R103: any operand count an instruction does not accept raises `ArityError` with no operand, whatever the operands. -/
def Obligations.WrongOperandCountIsArityError : Prop :=
  ∀ i (s : State), ¬acceptsCount i → exec i s = .next (faulted s .arityError none)

/-- Only the destination register of an instruction can change (R21). -/
def Obligations.OnlyTheDestinationIsWritten : Prop :=
  ∀ i (s t : State) (d : RegIndex), exec i s = .next t → destOf i ≠ some d → t.x[d] = s.x[d]

/-- No instruction but the five conditional jumps reads a flag: with other flags before, a completed instruction ends in the
same state, and a fatal error differs only in the flags it leaves alone (R26). -/
def Obligations.OnlyConditionalJumpsReadFlags : Prop :=
  ∀ i (s t : State) z f, ¬readsFlags i → s.hs = .run → exec i s = .next t →
    (t.hs = .run → exec i { s with zf := z, sf := f } = .next t) ∧
      (t.hs ≠ .run → exec i { s with zf := z, sf := f } = .next { t with zf := z, sf := f })

/-- A completed instruction goes on at `pc + 1`, or, if it is a jump, possibly at one past a label value it holds (R110). -/
def Obligations.PcAdvancesOrJumpsPastALabel : Prop :=
  ∀ i (s t : State), s.hs = .run → exec i s = .next t → t.hs = .run →
    t.pc = s.pc + 1#32 ∨ ∃ v ∈ labelValues i, t.pc = v + 1#32

/-- No step changes the instruction store, the label table or the parameters (R9, R29, R30, R52; that the parameters are a
field of the state is the model's choice, log entry 1). -/
def Obligations.StoresAreReadOnly : Prop :=
  ∀ s t : State, step s = .next t → t.imem = s.imem ∧ t.labels = s.labels ∧ t.params = s.params

/-! ## Invariants and the end of a run -/

/-- The state right after reset meets the invariant; that it holds no program is the model's choice (log entry 9). -/
def Obligations.ResetMeetsTheInvariant : Prop := State.reset.Inv

/-- Every step keeps the invariant of runs: the flags never both true, the store within bounds, unique labels in range, `pc`
at most `N`, a recorded fault naming the instruction at `pc` (R28, R29, R30, R111, R209). -/
def Obligations.StepKeepsTheInvariant : Prop := ∀ s t : State, s.Inv → step s = .next t → t.Inv

/-- Every program the loader accepts starts in the invariant (R30, R62, R63, R230), and so does every failed load: its
stores are empty by the model's choice (log entry 11), and its label clauses rest on that. -/
def Obligations.BootMeetsTheInvariant : Prop := ∀ p lines s, boot p lines = .started s → s.Inv

/-- R111: a run that ends, ends with `pc = N` exactly; an empty program ends at reset with no step. -/
def Obligations.RunsEndExactlyAtN : Prop :=
  (∀ s : State, s.Inv → s.hs = .run → s.count ≤ s.pc.toNat → s.pc.toNat = s.count ∧ step s = .fault .runEnded) ∧
    ∀ p s, boot p [] = .started s → s.hs = .run ∧ s.pc.toNat = s.count ∧ step s = .fault .runEnded

/-- R33: the status is `DONE` where `HS = RUN` and `pc >= N`, `FAULT` where `HS` is a fault, and `RUNNING` otherwise; where
it is `DONE` or `FAULT` there is no further step. -/
def Obligations.StatusIsDerived : Prop :=
  ∀ s : State,
    (s.status = .done ↔ s.hs = .run ∧ s.count ≤ s.pc.toNat) ∧ (s.status = .fault ↔ s.hs ≠ .run) ∧
      (s.status = .running ↔ s.hs = .run ∧ s.pc.toNat < s.count) ∧
      (s.status ≠ .running → ∃ f, step s = .fault f)

/-! ## Data movement and comparison -/

/-- R130, `mov`, whole. -/
def Obligations.MovMovesItsSource : Prop :=
  (∀ ops, opcField (encode (.mov ops)) = 0#5) ∧
    ∀ (s : State) ops,
      (operandCount ops ≠ 2 → exec (.mov ops) s = .next (faulted s .arityError none)) ∧
        ∀ a b, ops = .two a b →
          ((∀ d, a ≠ .reg d) → exec (.mov ops) s = .next (faulted s .operandError (some 0))) ∧
            ∀ d, a = .reg d →
              (srcValue s b = none → exec (.mov ops) s = .next (faulted s .operandError (some 1))) ∧
                ∀ v, srcValue s b = some v →
                  exec (.mov ops) s = .next { s with x := s.x.set d v, zf := true, sf := false, pc := s.pc + 1#32 }

/-- R140, `cmp`, whole: the flags of the difference, no register written. -/
def Obligations.CmpSetsFlagsFromTheDifference : Prop :=
  (∀ ops, opcField (encode (.cmp ops)) = 1#5) ∧ CompareErrors .cmp ∧
    ∀ (s : State) a b va vb, srcValue s a = some va → srcValue s b = some vb →
      (s.params.ovf = .wrap ∨ Fits (va.toInt - vb.toInt) →
        exec (.cmp (.two a b)) s = .next (completed s s.x (va - vb) (s.pc + 1#32))) ∧
        (s.params.ovf = .fault → ¬Fits (va.toInt - vb.toInt) →
          exec (.cmp (.two a b)) s = .next (faulted s .overflow none))

/-- A `cmp` whose difference fits sets `ZF` exactly for equal operands and `SF` exactly for a smaller operand 0; the `ZF`
half holds for every `cmp` that completes (R140, 90_conflicts.md C6). -/
def Obligations.CmpFlagsSayTheOrder : Prop :=
  ∀ (s t : State) a b va vb, s.hs = .run → srcValue s a = some va → srcValue s b = some vb →
    exec (.cmp (.two a b)) s = .next t → t.hs = .run →
    (t.zf = true ↔ va = vb) ∧ (Fits (va.toInt - vb.toInt) → (t.sf = true ↔ va.toInt < vb.toInt))

/-- R141, `test`, whole: the flags of the bitwise AND, no register written. -/
def Obligations.TestSetsFlagsFromTheAnd : Prop :=
  (∀ ops, opcField (encode (.test ops)) = 2#5) ∧ CompareErrors .test ∧
    ∀ (s : State) a b va vb, srcValue s a = some va → srcValue s b = some vb →
      exec (.test (.two a b)) s = .next (completed s s.x (va &&& vb) (s.pc + 1#32))

/-! ## Arithmetic and logic -/

/-- R150, `add`, whole. -/
def Obligations.AddWritesTheSum : Prop := OverflowingRule .add 3#5 (fun a b => a + b) (fun a b => a + b)

/-- R151, `sub`, whole. -/
def Obligations.SubWritesTheDifference : Prop := OverflowingRule .sub 4#5 (fun a b => a - b) (fun a b => a - b)

/-- R152, `mul`, whole. -/
def Obligations.MulWritesTheProduct : Prop := OverflowingRule .mul 5#5 (fun a b => a * b) (fun a b => a * b)

/-- R153, `div`, whole: `DivideByZero(1)` for a zero divisor, before overflow; else the quotient rounded toward zero. -/
def Obligations.DivWritesTheQuotient : Prop :=
  (∀ ops, opcField (encode (.div ops)) = 6#5) ∧ AluErrors .div ∧
    ∀ (s : State) ops k d a b va vb, aluParts ops = some (k, .reg d, a, b) → srcValue s a = some va →
      srcValue s b = some vb →
      (vb = 0#32 → exec (.div ops) s = .next (faulted s .divideByZero (some 1))) ∧
        (vb ≠ 0#32 → (s.params.ovf = .wrap ∨ Fits (va.toInt.tdiv vb.toInt)) →
          exec (.div ops) s = .next (completed s (s.x.set d (va.sdiv vb)) (va.sdiv vb) (s.pc + 1#32))) ∧
        (vb ≠ 0#32 → s.params.ovf = .fault → ¬Fits (va.toInt.tdiv vb.toInt) →
          exec (.div ops) s = .next (faulted s .overflow none))

/-- R154, `and`, whole. -/
def Obligations.AndWritesTheBitwiseAnd : Prop := BitwiseRule .and 7#5 (fun a b => a &&& b)

/-- R155, `or`, whole. -/
def Obligations.OrWritesTheBitwiseOr : Prop := BitwiseRule .or 8#5 (fun a b => a ||| b)

/-- R156, `xor`, whole. -/
def Obligations.XorWritesTheBitwiseXor : Prop := BitwiseRule .xor 9#5 (fun a b => a ^^^ b)

/-- R157, `not`, whole: logical negation of the register itself, 1 for zero and 0 for any other value. -/
def Obligations.NotNegatesLogically : Prop :=
  (∀ ops, opcField (encode (.not ops)) = 10#5) ∧
    ∀ s : State,
      (∀ ops, operandCount ops ≠ 1 → exec (.not ops) s = .next (faulted s .arityError none)) ∧
        (∀ a, (∀ d, a ≠ .reg d) → exec (.not (.one a)) s = .next (faulted s .operandError (some 0))) ∧
        ∀ d : RegIndex,
          (s.x[d] = 0#32 → exec (.not (.one (.reg d))) s =
            .next { s with x := s.x.set d 1#32, zf := false, sf := false, pc := s.pc + 1#32 }) ∧
            (s.x[d] ≠ 0#32 → exec (.not (.one (.reg d))) s =
              .next { s with x := s.x.set d 0#32, zf := true, sf := false, pc := s.pc + 1#32 })

/-! ## Control transfer -/

/-- R170, `jmp`, whole: always taken, whatever the flags. -/
def Obligations.JmpAlwaysJumps : Prop :=
  JumpErrors .jmp 11#5 ∧ ∀ (s : State) v, exec (.jmp (.one (.label v))) s = .next (jumped s false v)

/-- R171, `je`, whole: it jumps where `ZF` is false. -/
def Obligations.JeJumpsWhenZeroFlagFalse : Prop := JumpErrors .je 12#5 ∧ JumpsWhen .je fun z _ => !z

/-- R172, `jl`, whole: it jumps where `SF` is true and `ZF` is false. -/
def Obligations.JlJumpsWhenSignOnly : Prop := JumpErrors .jl 13#5 ∧ JumpsWhen .jl fun z f => f && !z

/-- R173, `jle`, whole: it jumps where both flags are true. -/
def Obligations.JleJumpsWhenBothFlags : Prop := JumpErrors .jle 14#5 ∧ JumpsWhen .jle fun z f => f && z

/-- R174, `jg`, whole: it jumps where both flags are false, and reports "not jumped" either way. -/
def Obligations.JgJumpsWhenNeitherFlag : Prop :=
  JumpErrors .jg 15#5 ∧
    ∀ (s : State) v,
      (s.zf = false ∧ s.sf = false → exec (.jg (.one (.label v))) s = .next (jumped s true v)) ∧
        (¬(s.zf = false ∧ s.sf = false) → exec (.jg (.one (.label v))) s = .next (notJumped s))

/-- R175, `jge`, whole: it jumps where `SF` is false and `ZF` is true. -/
def Obligations.JgeJumpsWhenZeroOnly : Prop := JumpErrors .jge 16#5 ∧ JumpsWhen .jge fun z f => !f && z

/-- A conditional jump right after another jump tests that jump's taken indication: after a completed `je`, `jl`, `jle`,
`jg`, `jge` or `jmp`, a `jl` never jumps (R236). -/
def Obligations.JumpsClobberTheFlags : Prop :=
  ∀ i (s t : State) v, 11 ≤ i.opc.toNat → s.hs = .run → exec i s = .next t → t.hs = .run →
    exec (.jl (.one (.label v))) t = .next (notJumped t)
end

