-- ==== Sys2Proof/Laws/Decode.lean ====
section
/-! SUPPORT. The fields of a decoded-instruction word: packing and reading them are inverse (R78), and the word of an
instruction carries its opcode number (R76). -/

namespace Sys2Proof

@[simp] theorem opcField_packWord (opc : BitVec 5) (n : BitVec 3) (c0 c1 c2 : Slot) :
    opcField (packWord opc n c0 c1 c2) = opc := by
  ext i hi
  simp only [opcField, packWord, BitVec.getElem_extractLsb', BitVec.getLsbD_append]
  repeat' split
  all_goals (first | omega | (rw [BitVec.getLsbD_eq_getElem (by omega)]; congr 1; omega))

@[simp] theorem nopsField_packWord (opc : BitVec 5) (n : BitVec 3) (c0 c1 c2 : Slot) :
    nopsField (packWord opc n c0 c1 c2) = n := by
  ext i hi
  simp only [nopsField, packWord, BitVec.getElem_extractLsb', BitVec.getLsbD_append]
  repeat' split
  all_goals (first | omega | (rw [BitVec.getLsbD_eq_getElem (by omega)]; congr 1; omega))

@[simp] theorem rsvField_packWord (opc : BitVec 5) (n : BitVec 3) (c0 c1 c2 : Slot) :
    rsvField (packWord opc n c0 c1 c2) = 0#18 := by
  ext i hi
  simp only [rsvField, packWord, BitVec.getElem_extractLsb', BitVec.getLsbD_append]
  repeat' split
  all_goals (first | omega | simp)

@[simp] theorem slot0_packWord (opc : BitVec 5) (n : BitVec 3) (c0 c1 c2 : Slot) :
    slot0 (packWord opc n c0 c1 c2) = c0 := by
  rcases c0 with ⟨k, v⟩
  simp only [slot0, packWord, Slot.mk.injEq]
  constructor
  · ext i hi
    simp only [BitVec.getElem_extractLsb', BitVec.getLsbD_append]
    repeat' split
    all_goals (first | omega | (rw [BitVec.getLsbD_eq_getElem (by omega)]; congr 1; omega))
  · ext i hi
    simp only [BitVec.getElem_extractLsb', BitVec.getLsbD_append]
    repeat' split
    all_goals (first | omega | (rw [BitVec.getLsbD_eq_getElem (by omega)]; congr 1; omega))

@[simp] theorem slot1_packWord (opc : BitVec 5) (n : BitVec 3) (c0 c1 c2 : Slot) :
    slot1 (packWord opc n c0 c1 c2) = c1 := by
  rcases c1 with ⟨k, v⟩
  simp only [slot1, packWord, Slot.mk.injEq]
  constructor
  · ext i hi
    simp only [BitVec.getElem_extractLsb', BitVec.getLsbD_append]
    repeat' split
    all_goals (first | omega | (rw [BitVec.getLsbD_eq_getElem (by omega)]; congr 1; omega))
  · ext i hi
    simp only [BitVec.getElem_extractLsb', BitVec.getLsbD_append]
    repeat' split
    all_goals (first | omega | (rw [BitVec.getLsbD_eq_getElem (by omega)]; congr 1; omega))

@[simp] theorem slot2_packWord (opc : BitVec 5) (n : BitVec 3) (c0 c1 c2 : Slot) :
    slot2 (packWord opc n c0 c1 c2) = c2 := by
  rcases c2 with ⟨k, v⟩
  simp only [slot2, packWord, Slot.mk.injEq]
  constructor
  · ext i hi
    simp only [BitVec.getElem_extractLsb', BitVec.getLsbD_append]
    repeat' split
    all_goals (first | omega | (rw [BitVec.getLsbD_eq_getElem (by omega)]; congr 1; omega))
  · ext i hi
    simp only [BitVec.getElem_extractLsb', BitVec.getLsbD_append]
    repeat' split
    all_goals (first | omega | (rw [BitVec.getLsbD_eq_getElem (by omega)]; congr 1; omega))

/-- A word whose reserved field is zero is the packing of its fields (R78). -/
theorem packWord_fields (w : Diw) (h : rsvField w = 0#18) :
    packWord (opcField w) (nopsField w) (slot0 w) (slot1 w) (slot2 w) = w := by
  rw [packWord, ← h]
  ext i hi
  simp only [slot0, slot1, slot2, opcField, nopsField, rsvField, BitVec.getElem_append, BitVec.getElem_extractLsb']
  repeat' split
  all_goals (rw [BitVec.getLsbD_eq_getElem (by omega)]; congr 1; omega)

/-- The word of an operand list carries the opcode number it is packed with. -/
@[simp] theorem opcField_encodeOperands {α : Type} (g : α → Slot) (opc : BitVec 5) (ops : Operands α) :
    opcField (encodeOperands g opc ops) = opc := by
  cases ops <;> simp [encodeOperands]

/-- The word of an operand list has a zero reserved field (R80). -/
@[simp] theorem rsvField_encodeOperands {α : Type} (g : α → Slot) (opc : BitVec 5) (ops : Operands α) :
    rsvField (encodeOperands g opc ops) = 0#18 := by
  cases ops <;> simp [encodeOperands]

@[simp] theorem Slot.empty_unused : Slot.empty.unused = true := by decide

/-- An unused operand position is the empty one (R80). -/
theorem Slot.unused_iff (c : Slot) : c.unused = true ↔ c = Slot.empty := by
  rcases c with ⟨k, v⟩
  simp [Slot.unused, Slot.empty]

/-- A well-formed source operand is read back from its encoding (R79). -/
theorem decodeSrc_encodeSrc (o : Src) (h : o.wf = true) : decodeSrc (encodeSrc o) = .ok o := by
  cases o with
  | reg d => fin_cases d <;> rfl
  | lit v => simp [Src.wf] at h; simp [decodeSrc, encodeSrc, h]
  | bad => rfl

/-- A label operand is read back from its encoding (R79). -/
theorem decodeTarget_encodeTarget (t : Target) : decodeTarget (encodeTarget t) = .ok t := by
  cases t <;> rfl

end Sys2Proof
end

