-- ==== Sys2Proof/Laws/State.lean ====
section
/-! SUPPORT. One lemma per field per update of the state, true by unfolding the update once. -/

namespace Sys2Proof.Machine

/-! ## `State.setReg` -/

@[simp] theorem State.setReg_x (s : State) (d : RegIndex) (v : Word) : (s.setReg d v).x = s.x.set d v := rfl
@[simp] theorem State.setReg_pc (s : State) (d : RegIndex) (v : Word) : (s.setReg d v).pc = s.pc := rfl
@[simp] theorem State.setReg_zf (s : State) (d : RegIndex) (v : Word) : (s.setReg d v).zf = s.zf := rfl
@[simp] theorem State.setReg_sf (s : State) (d : RegIndex) (v : Word) : (s.setReg d v).sf = s.sf := rfl
@[simp] theorem State.setReg_hs (s : State) (d : RegIndex) (v : Word) : (s.setReg d v).hs = s.hs := rfl
@[simp] theorem State.setReg_imem (s : State) (d : RegIndex) (v : Word) : (s.setReg d v).imem = s.imem := rfl
@[simp] theorem State.setReg_labels (s : State) (d : RegIndex) (v : Word) : (s.setReg d v).labels = s.labels := rfl
@[simp] theorem State.setReg_params (s : State) (d : RegIndex) (v : Word) : (s.setReg d v).params = s.params := rfl

/-! ## `State.setPc` -/

@[simp] theorem State.setPc_x (s : State) (v : Pc) : (s.setPc v).x = s.x := rfl
@[simp] theorem State.setPc_pc (s : State) (v : Pc) : (s.setPc v).pc = v := rfl
@[simp] theorem State.setPc_zf (s : State) (v : Pc) : (s.setPc v).zf = s.zf := rfl
@[simp] theorem State.setPc_sf (s : State) (v : Pc) : (s.setPc v).sf = s.sf := rfl
@[simp] theorem State.setPc_hs (s : State) (v : Pc) : (s.setPc v).hs = s.hs := rfl
@[simp] theorem State.setPc_imem (s : State) (v : Pc) : (s.setPc v).imem = s.imem := rfl
@[simp] theorem State.setPc_labels (s : State) (v : Pc) : (s.setPc v).labels = s.labels := rfl
@[simp] theorem State.setPc_params (s : State) (v : Pc) : (s.setPc v).params = s.params := rfl

/-! ## `State.setHalt` -/

@[simp] theorem State.setHalt_x (s : State) (h : Halt) : (s.setHalt h).x = s.x := rfl
@[simp] theorem State.setHalt_pc (s : State) (h : Halt) : (s.setHalt h).pc = s.pc := rfl
@[simp] theorem State.setHalt_zf (s : State) (h : Halt) : (s.setHalt h).zf = s.zf := rfl
@[simp] theorem State.setHalt_sf (s : State) (h : Halt) : (s.setHalt h).sf = s.sf := rfl
@[simp] theorem State.setHalt_hs (s : State) (h : Halt) : (s.setHalt h).hs = h := rfl
@[simp] theorem State.setHalt_imem (s : State) (h : Halt) : (s.setHalt h).imem = s.imem := rfl
@[simp] theorem State.setHalt_labels (s : State) (h : Halt) : (s.setHalt h).labels = s.labels := rfl
@[simp] theorem State.setHalt_params (s : State) (h : Halt) : (s.setHalt h).params = s.params := rfl

/-! ## `State.setFlags` -/

@[simp] theorem State.setFlags_x (s : State) (r : Word) : (s.setFlags r).x = s.x := rfl
@[simp] theorem State.setFlags_pc (s : State) (r : Word) : (s.setFlags r).pc = s.pc := rfl
@[simp] theorem State.setFlags_zf (s : State) (r : Word) : (s.setFlags r).zf = zeroFlagOf r := rfl
@[simp] theorem State.setFlags_sf (s : State) (r : Word) : (s.setFlags r).sf = signFlagOf r := rfl
@[simp] theorem State.setFlags_hs (s : State) (r : Word) : (s.setFlags r).hs = s.hs := rfl
@[simp] theorem State.setFlags_imem (s : State) (r : Word) : (s.setFlags r).imem = s.imem := rfl
@[simp] theorem State.setFlags_labels (s : State) (r : Word) : (s.setFlags r).labels = s.labels := rfl
@[simp] theorem State.setFlags_params (s : State) (r : Word) : (s.setFlags r).params = s.params := rfl

/-! ## `State.raise` -/

@[simp] theorem State.raise_x (s : State) (e : Raised) : (s.raise e).x = s.x := rfl
@[simp] theorem State.raise_pc (s : State) (e : Raised) : (s.raise e).pc = s.pc := rfl
@[simp] theorem State.raise_zf (s : State) (e : Raised) : (s.raise e).zf = s.zf := rfl
@[simp] theorem State.raise_sf (s : State) (e : Raised) : (s.raise e).sf = s.sf := rfl
@[simp] theorem State.raise_hs (s : State) (e : Raised) : (s.raise e).hs = .fault e.kind s.pc e.opnd := rfl
@[simp] theorem State.raise_imem (s : State) (e : Raised) : (s.raise e).imem = s.imem := rfl
@[simp] theorem State.raise_labels (s : State) (e : Raised) : (s.raise e).labels = s.labels := rfl
@[simp] theorem State.raise_params (s : State) (e : Raised) : (s.raise e).params = s.params := rfl

/-! ## `State.applyWrite` and `State.commit` -/

@[simp] theorem State.applyWrite_none (s : State) : s.applyWrite none = s := rfl

@[simp] theorem State.applyWrite_some (s : State) (d : RegIndex) (v : Word) : s.applyWrite (some (d, v)) = s.setReg d v := rfl

@[simp] theorem State.applyWrite_pc (s : State) (wr : Option (RegIndex × Word)) : (s.applyWrite wr).pc = s.pc := by
  cases wr <;> rfl

@[simp] theorem State.applyWrite_zf (s : State) (wr : Option (RegIndex × Word)) : (s.applyWrite wr).zf = s.zf := by
  cases wr <;> rfl

@[simp] theorem State.applyWrite_sf (s : State) (wr : Option (RegIndex × Word)) : (s.applyWrite wr).sf = s.sf := by
  cases wr <;> rfl

@[simp] theorem State.applyWrite_hs (s : State) (wr : Option (RegIndex × Word)) : (s.applyWrite wr).hs = s.hs := by
  cases wr <;> rfl

@[simp] theorem State.applyWrite_imem (s : State) (wr : Option (RegIndex × Word)) : (s.applyWrite wr).imem = s.imem := by
  cases wr <;> rfl

@[simp] theorem State.applyWrite_labels (s : State) (wr : Option (RegIndex × Word)) : (s.applyWrite wr).labels = s.labels := by
  cases wr <;> rfl

@[simp] theorem State.applyWrite_params (s : State) (wr : Option (RegIndex × Word)) : (s.applyWrite wr).params = s.params := by
  cases wr <;> rfl

@[simp] theorem State.commit_x (s : State) (r : Result) : (s.commit r).x = (s.applyWrite r.wr).x := by
  simp [State.commit]

@[simp] theorem State.commit_pc (s : State) (r : Result) : (s.commit r).pc = nextPc s.pc r.tgt := by
  simp [State.commit]

@[simp] theorem State.commit_zf (s : State) (r : Result) : (s.commit r).zf = zeroFlagOf r.res := by
  simp [State.commit]

@[simp] theorem State.commit_sf (s : State) (r : Result) : (s.commit r).sf = signFlagOf r.res := by
  simp [State.commit]

@[simp] theorem State.commit_hs (s : State) (r : Result) : (s.commit r).hs = s.hs := by
  simp [State.commit]

@[simp] theorem State.commit_imem (s : State) (r : Result) : (s.commit r).imem = s.imem := by
  simp [State.commit]

@[simp] theorem State.commit_labels (s : State) (r : Result) : (s.commit r).labels = s.labels := by
  simp [State.commit]

@[simp] theorem State.commit_params (s : State) (r : Result) : (s.commit r).params = s.params := by
  simp [State.commit]

/-! ## Reading registers -/

@[simp] theorem State.reg_setReg_same (s : State) (d : RegIndex) (v : Word) : (s.setReg d v).reg d = v := by
  simp [State.reg]

theorem State.reg_setReg_other (s : State) (d e : RegIndex) (v : Word) (h : e ≠ d) : (s.setReg d v).reg e = s.reg e := by
  have hne : d.val ≠ e.val := fun he => h (Fin.ext he.symm)
  simp [State.reg, hne]

@[simp] theorem nextPc_none (p : Pc) : nextPc p none = p + 1#32 := rfl

@[simp] theorem nextPc_some (p : Pc) (v : Word) : nextPc p (some v) = v + 1#32 := rfl

end Sys2Proof.Machine
end

