-- ==== Sys2Proof/Laws/Memory.lean ====
section
/-! SUPPORT. The instruction store: no operation of an instruction writes it (R52), and what the host's placing of a word
gives. -/

namespace Sys2Proof.Machine

/-- A commit keeps the form of the store. -/
theorem State.commit_imemWf (s : State) (r : Result) : (s.commit r).imemWf ↔ s.imemWf := by
  simp [State.imemWf]

/-- A fatal error keeps the form of the store. -/
theorem State.raise_imemWf (s : State) (e : Raised) : (s.raise e).imemWf ↔ s.imemWf := Iff.rfl

/-- A commit changes nothing that a fetch at a given `pc` reads. -/
theorem State.commit_imem_getElem (s : State) (r : Result) (k : Nat) : (s.commit r).imem[k]? = s.imem[k]? := by
  simp

/-- A placed word is what the next fetch reads. -/
theorem State.fetch_placeWord (s : State) (w : Diw) : (s.placeWord w).fetch = some (.word w) := by
  have h : s.pc.toNat < s.imem.length + (s.pc.toNat + 1 - s.imem.length) := by omega
  simp [State.fetch, State.placeWord, h]

/-- Placing a word leaves every other loaded entry alone. -/
theorem State.placeWord_getElem_other (s : State) (w : Diw) (k : Nat) (hk : k < s.imem.length) (hne : k ≠ s.pc.toNat) :
    (s.placeWord w).imem[k]? = s.imem[k]? := by
  simp only [State.placeWord]
  rw [List.getElem?_set_ne (Ne.symm hne), List.getElem?_append_left hk]

/-- Placing a word below `NMAX` keeps the form of the store. -/
theorem State.placeWord_imemWf (s : State) (w : Diw) (h : s.imemWf) (hp : s.pc.toNat < maxInstructions) :
    (s.placeWord w).imemWf := by
  simp only [State.imemWf] at h ⊢
  simp only [State.placeWord, List.length_set, List.length_append, List.length_replicate]
  omega

end Sys2Proof.Machine
end

