-- ==== Sys2Proof/Laws/Ops.lean ====
section
/-! SUPPORT. One lemma per shared operation that says all it can do: later proofs cite it and do not unfold the
operation. -/

namespace Sys2Proof.Machine

/-- An instruction ends in a commit or in a fatal error, and always in a next state (R108, R115). -/
theorem finish_cases (s : State) (h : Except Raised Result) :
    (∃ r, h = .ok r ∧ finish s h = .next (s.commit r)) ∨ (∃ e, h = .error e ∧ finish s h = .next (s.raise e)) := by
  cases h with
  | ok r => exact .inl ⟨r, rfl, rfl⟩
  | error e => exact .inr ⟨e, rfl, rfl⟩

@[simp] theorem finish_ok (s : State) (r : Result) : finish s (.ok r) = .next (s.commit r) := rfl

@[simp] theorem finish_error (s : State) (e : Raised) : finish s (.error e) = .next (s.raise e) := rfl

/-! ## Operands -/

@[simp] theorem resolve_reg (s : State) (k : OperandIndex) (d : RegIndex) : resolve s k (.reg d) = .ok (s.reg d) := rfl

@[simp] theorem resolve_lit (s : State) (k : OperandIndex) (v : Word) : resolve s k (.lit v) = .ok v := rfl

@[simp] theorem resolve_bad (s : State) (k : OperandIndex) : resolve s k .bad = .error (operandError k) := rfl

@[simp] theorem needReg_reg (k : OperandIndex) (d : RegIndex) : needReg k (.reg d) = .ok d := rfl

@[simp] theorem needReg_lit (k : OperandIndex) (v : Word) : needReg k (.lit v) = .error (operandError k) := rfl

@[simp] theorem needReg_bad (k : OperandIndex) : needReg k .bad = .error (operandError k) := rfl

@[simp] theorem needLabel_label (v : Word) : needLabel (.label v) = .ok v := rfl

@[simp] theorem needLabel_undefined : needLabel .undefined = .error unknownLabel := rfl

/-- A register operand is found exactly for a register token (R105). -/
theorem needReg_ok_iff (k : OperandIndex) (o : Src) (d : RegIndex) : needReg k o = .ok d ↔ o = .reg d := by
  cases o <;> simp [needReg]

/-- Where no register operand is found, the error is `OperandError(k)` (R105). -/
theorem needReg_error_iff (k : OperandIndex) (o : Src) (e : Raised) :
    needReg k o = .error e ↔ (∀ d, o ≠ .reg d) ∧ e = operandError k := by
  cases o <;> simp [needReg, eq_comm]

/-- A source fails to resolve only if it is bad, with `OperandError(k)` (R104). -/
theorem resolve_error_iff (s : State) (k : OperandIndex) (o : Src) (e : Raised) :
    resolve s k o = .error e ↔ o = .bad ∧ e = operandError k := by
  cases o <;> simp [resolve, eq_comm]

/-- Both sources resolve exactly if each does. -/
theorem resolveTwo_ok_iff (s : State) (a b : Src) (va vb : Word) :
    resolveTwo s a b = .ok (va, vb) ↔ resolve s 0 a = .ok va ∧ resolve s 1 b = .ok vb := by
  cases a <;> cases b <;> simp [resolveTwo]

/-- The first bad source, operand 0 before operand 1, decides the error (R208). -/
theorem resolveTwo_error_iff (s : State) (a b : Src) (e : Raised) :
    resolveTwo s a b = .error e ↔
      (a = .bad ∧ e = operandError 0) ∨ (a ≠ .bad ∧ b = .bad ∧ e = operandError 1) := by
  cases a <;> cases b <;> simp [resolveTwo, eq_comm]

/-! ## Handler shapes -/

/-- All a handler with a destination can answer (R106, R208). -/
theorem intoDest_cases (s : State) (k : OperandIndex) (dest a b : Src) (f : Word → Word → Except Raised Word) :
    ((∀ d, dest ≠ .reg d) ∧ intoDest s k dest a b f = .error (operandError k)) ∨
      (∃ d, dest = .reg d ∧ a = .bad ∧ intoDest s k dest a b f = .error (operandError 0)) ∨
        (∃ d, dest = .reg d ∧ a ≠ .bad ∧ b = .bad ∧ intoDest s k dest a b f = .error (operandError 1)) ∨
          ∃ d va vb, dest = .reg d ∧ resolve s 0 a = .ok va ∧ resolve s 1 b = .ok vb ∧
            ((∃ e, f va vb = .error e ∧ intoDest s k dest a b f = .error e) ∨
              ∃ r, f va vb = .ok r ∧ intoDest s k dest a b f = .ok { res := r, wr := some (d, r), tgt := none }) := by
  have run : ∀ d va vb, resolveTwo s a b = .ok (va, vb) →
      (∃ e, f va vb = .error e ∧ intoDest s k (.reg d) a b f = .error e) ∨
        ∃ r, f va vb = .ok r ∧ intoDest s k (.reg d) a b f = .ok { res := r, wr := some (d, r), tgt := none } := by
    intro d va vb h
    cases hf : f va vb <;> simp [intoDest, h, hf]
  cases dest with
  | lit v => exact .inl (by simp [intoDest])
  | bad => exact .inl (by simp [intoDest])
  | reg d =>
    refine .inr ?_
    by_cases ha : a = .bad
    · exact .inl ⟨d, rfl, ha, by simp [intoDest, resolveTwo, ha]⟩
    by_cases hb : b = .bad
    · exact .inr (.inl ⟨d, rfl, ha, hb, by cases a <;> simp_all [intoDest, resolveTwo]⟩)
    refine .inr (.inr ?_)
    cases ra : resolve s 0 a with
    | error e => exact absurd ((resolve_error_iff _ _ _ _).1 ra).1 ha
    | ok va =>
      cases rb : resolve s 1 b with
      | error e => exact absurd ((resolve_error_iff _ _ _ _).1 rb).1 hb
      | ok vb => exact ⟨d, va, vb, rfl, rfl, rfl, run d va vb ((resolveTwo_ok_iff _ _ _ _ _).2 ⟨ra, rb⟩)⟩

/-- A result of the two- or three-operand form writes the destination with the recent result and jumps nowhere (R106). -/
theorem twoOrThree_ok (s : State) (ops : Operands Src) (f : Word → Word → Except Raised Word) (r : Result)
    (h : twoOrThree s ops f = .ok r) :
    ∃ d va vb, f va vb = .ok r.res ∧ r = { res := r.res, wr := some (d, r.res), tgt := none } ∧
      ((∃ b, ops = .two (.reg d) b ∧ resolve s 0 (.reg d) = .ok va ∧ resolve s 1 b = .ok vb) ∨
        ∃ a b, ops = .three a b (.reg d) ∧ resolve s 0 a = .ok va ∧ resolve s 1 b = .ok vb) := by
  cases ops with
  | zero => cases h
  | one a => cases h
  | fourPlus a b c => cases h
  | two a b =>
    rcases intoDest_cases s 0 a a b f with ⟨_, he⟩ | ⟨_, _, _, he⟩ | ⟨_, _, _, _, he⟩ | ⟨d, va, vb, hd, ha, hb, hr⟩
    · simp [twoOrThree, he] at h
    · simp [twoOrThree, he] at h
    · simp [twoOrThree, he] at h
    · rcases hr with ⟨e, _, he⟩ | ⟨w, hw, he⟩
      · simp [twoOrThree, he] at h
      · simp only [twoOrThree, he, Except.ok.injEq] at h
        subst h hd
        exact ⟨d, va, vb, hw, rfl, .inl ⟨b, rfl, ha, hb⟩⟩
  | three a b c =>
    rcases intoDest_cases s 2 c a b f with ⟨_, he⟩ | ⟨_, _, _, he⟩ | ⟨_, _, _, _, he⟩ | ⟨d, va, vb, hd, ha, hb, hr⟩
    · simp [twoOrThree, he] at h
    · simp [twoOrThree, he] at h
    · simp [twoOrThree, he] at h
    · rcases hr with ⟨e, _, he⟩ | ⟨w, hw, he⟩
      · simp [twoOrThree, he] at h
      · simp only [twoOrThree, he, Except.ok.injEq] at h
        subst h hd
        exact ⟨d, va, vb, hw, rfl, .inr ⟨a, b, rfl, ha, hb⟩⟩

/-- A result of the comparison form writes no register and jumps nowhere (42_comparison.md). -/
theorem compareTwo_ok (s : State) (ops : Operands Src) (f : Word → Word → Except Raised Word) (r : Result)
    (h : compareTwo s ops f = .ok r) :
    ∃ a b va vb, ops = .two a b ∧ resolve s 0 a = .ok va ∧ resolve s 1 b = .ok vb ∧ f va vb = .ok r.res ∧
      r = { res := r.res, wr := none, tgt := none } := by
  cases ops with
  | zero => cases h
  | one a => cases h
  | three a b c => cases h
  | fourPlus a b c => cases h
  | two a b =>
    cases hr : resolveTwo s a b with
    | error e => simp [compareTwo, hr] at h
    | ok p =>
      obtain ⟨va, vb⟩ := p
      cases hf : f va vb with
      | error e => simp [compareTwo, hr, hf] at h
      | ok w =>
        simp only [compareTwo, hr, hf, Except.ok.injEq] at h
        subst h
        obtain ⟨ha, hb⟩ := (resolveTwo_ok_iff _ _ _ _ _).1 hr
        exact ⟨a, b, va, vb, rfl, ha, hb, hf, rfl⟩

/-- A result of the control-transfer form writes no register and jumps, if at all, to its defined label (R176). -/
theorem jumpWhen_ok (taken : Bool) (res : Word) (ops : Operands Target) (r : Result) (h : jumpWhen taken res ops = .ok r) :
    ∃ v, ops = .one (.label v) ∧ r = { res := res, wr := none, tgt := if taken then some v else none } := by
  cases ops with
  | zero => cases h
  | two a b => cases h
  | three a b c => cases h
  | fourPlus a b c => cases h
  | one t =>
    cases t with
    | undefined => cases h
    | label v => exact ⟨v, rfl, by simpa [jumpWhen, eq_comm] using h⟩

/-- The control-transfer form fails with `ArityError` unless it has one operand, and with `UnknownLabel(0)` if that
operand is undefined, taken or not (R103, R176). -/
theorem jumpWhen_error (taken : Bool) (res : Word) (ops : Operands Target) (e : Raised)
    (h : jumpWhen taken res ops = .error e) :
    ((∀ t, ops ≠ .one t) ∧ e = arityError) ∨ (ops = .one .undefined ∧ e = unknownLabel) := by
  cases ops with
  | one t => cases t <;> simp_all [jumpWhen, eq_comm]
  | zero => simp_all [jumpWhen, eq_comm]
  | two a b => simp_all [jumpWhen, eq_comm]
  | three a b c => simp_all [jumpWhen, eq_comm]
  | fourPlus a b c => simp_all [jumpWhen, eq_comm]

/-! ## Arithmetic -/

/-- `chk` answers the wrapped result unless `OVF = fault` and it does not fit (R113). -/
theorem chk_cases (ovf : OverflowMode) (r : Int) :
    chk ovf r = if ovf = .fault ∧ fitsWord r = false then none else some (wrapWord r) := by
  cases ovf <;> by_cases h : fitsWord r = true <;> simp [chk, h]

/-- The sign flag is the sign bit of the recent result. -/
theorem signFlagOf_eq_msb (r : Word) : signFlagOf r = r.msb := by
  rw [signFlagOf, BitVec.msb_eq_toInt]

/-- No recent result sets both flags (R28). -/
theorem flags_not_both (r : Word) : ¬(zeroFlagOf r = true ∧ signFlagOf r = true) := by
  rintro ⟨hz, hs⟩
  simp only [zeroFlagOf, beq_iff_eq] at hz
  subst hz
  simp [signFlagOf] at hs

end Sys2Proof.Machine
end

