-- ==== Sys2Proof/Laws/PerInstr.lean ====
section
/-! SUPPORT. The per-instruction family `OpcodeField`: the word of an instruction carries its opcode number in bits 4:0
(R76, R78, R81). -/

namespace Sys2Proof.Laws.OpcodeField

/-- The low five bits of the instruction's word are its opcode number. -/
def Statement (i : Instr) : Prop := opcField (encode i) = i.opc

end Sys2Proof.Laws.OpcodeField

theorem Sys2Proof.Laws.OpcodeField.mov (ops : Sys2Proof.Operands Sys2Proof.Src) :
    Sys2Proof.Laws.OpcodeField.Statement (Sys2Proof.Instr.mov ops) :=
  Sys2Proof.opcField_encodeOperands _ _ ops

theorem Sys2Proof.Laws.OpcodeField.cmp (ops : Sys2Proof.Operands Sys2Proof.Src) :
    Sys2Proof.Laws.OpcodeField.Statement (Sys2Proof.Instr.cmp ops) :=
  Sys2Proof.opcField_encodeOperands _ _ ops

theorem Sys2Proof.Laws.OpcodeField.test (ops : Sys2Proof.Operands Sys2Proof.Src) :
    Sys2Proof.Laws.OpcodeField.Statement (Sys2Proof.Instr.test ops) :=
  Sys2Proof.opcField_encodeOperands _ _ ops

theorem Sys2Proof.Laws.OpcodeField.add (ops : Sys2Proof.Operands Sys2Proof.Src) :
    Sys2Proof.Laws.OpcodeField.Statement (Sys2Proof.Instr.add ops) :=
  Sys2Proof.opcField_encodeOperands _ _ ops

theorem Sys2Proof.Laws.OpcodeField.sub (ops : Sys2Proof.Operands Sys2Proof.Src) :
    Sys2Proof.Laws.OpcodeField.Statement (Sys2Proof.Instr.sub ops) :=
  Sys2Proof.opcField_encodeOperands _ _ ops

theorem Sys2Proof.Laws.OpcodeField.mul (ops : Sys2Proof.Operands Sys2Proof.Src) :
    Sys2Proof.Laws.OpcodeField.Statement (Sys2Proof.Instr.mul ops) :=
  Sys2Proof.opcField_encodeOperands _ _ ops

theorem Sys2Proof.Laws.OpcodeField.div (ops : Sys2Proof.Operands Sys2Proof.Src) :
    Sys2Proof.Laws.OpcodeField.Statement (Sys2Proof.Instr.div ops) :=
  Sys2Proof.opcField_encodeOperands _ _ ops

theorem Sys2Proof.Laws.OpcodeField.and (ops : Sys2Proof.Operands Sys2Proof.Src) :
    Sys2Proof.Laws.OpcodeField.Statement (Sys2Proof.Instr.and ops) :=
  Sys2Proof.opcField_encodeOperands _ _ ops

theorem Sys2Proof.Laws.OpcodeField.or (ops : Sys2Proof.Operands Sys2Proof.Src) :
    Sys2Proof.Laws.OpcodeField.Statement (Sys2Proof.Instr.or ops) :=
  Sys2Proof.opcField_encodeOperands _ _ ops

theorem Sys2Proof.Laws.OpcodeField.xor (ops : Sys2Proof.Operands Sys2Proof.Src) :
    Sys2Proof.Laws.OpcodeField.Statement (Sys2Proof.Instr.xor ops) :=
  Sys2Proof.opcField_encodeOperands _ _ ops

theorem Sys2Proof.Laws.OpcodeField.not (ops : Sys2Proof.Operands Sys2Proof.Src) :
    Sys2Proof.Laws.OpcodeField.Statement (Sys2Proof.Instr.not ops) :=
  Sys2Proof.opcField_encodeOperands _ _ ops

theorem Sys2Proof.Laws.OpcodeField.jmp (ops : Sys2Proof.Operands Sys2Proof.Target) :
    Sys2Proof.Laws.OpcodeField.Statement (Sys2Proof.Instr.jmp ops) :=
  Sys2Proof.opcField_encodeOperands _ _ ops

theorem Sys2Proof.Laws.OpcodeField.je (ops : Sys2Proof.Operands Sys2Proof.Target) :
    Sys2Proof.Laws.OpcodeField.Statement (Sys2Proof.Instr.je ops) :=
  Sys2Proof.opcField_encodeOperands _ _ ops

theorem Sys2Proof.Laws.OpcodeField.jl (ops : Sys2Proof.Operands Sys2Proof.Target) :
    Sys2Proof.Laws.OpcodeField.Statement (Sys2Proof.Instr.jl ops) :=
  Sys2Proof.opcField_encodeOperands _ _ ops

theorem Sys2Proof.Laws.OpcodeField.jle (ops : Sys2Proof.Operands Sys2Proof.Target) :
    Sys2Proof.Laws.OpcodeField.Statement (Sys2Proof.Instr.jle ops) :=
  Sys2Proof.opcField_encodeOperands _ _ ops

theorem Sys2Proof.Laws.OpcodeField.jg (ops : Sys2Proof.Operands Sys2Proof.Target) :
    Sys2Proof.Laws.OpcodeField.Statement (Sys2Proof.Instr.jg ops) :=
  Sys2Proof.opcField_encodeOperands _ _ ops

theorem Sys2Proof.Laws.OpcodeField.jge (ops : Sys2Proof.Operands Sys2Proof.Target) :
    Sys2Proof.Laws.OpcodeField.Statement (Sys2Proof.Instr.jge ops) :=
  Sys2Proof.opcField_encodeOperands _ _ ops
end

