-- ==== Sys2Proof/Laws/Step.lean ====
section
/-! SUPPORT. What a meaning and a step can do, said once. -/

namespace Sys2Proof.Machine

/-- Every meaning is the end of some handler (R115). -/
theorem exec_eq_finish (i : Instr) (s : State) : ∃ h, exec i s = finish s h := by
  cases i <;> exact ⟨_, rfl⟩

/-- A next state of a meaning is a commit or a fatal error (R108). -/
theorem exec_next_cases (i : Instr) (s t : State) (h : exec i s = .next t) :
    (∃ r, exec i s = finish s (.ok r) ∧ t = s.commit r) ∨ ∃ e, exec i s = finish s (.error e) ∧ t = s.raise e := by
  obtain ⟨x, hx⟩ := exec_eq_finish i s
  rw [hx] at h ⊢
  cases x with
  | ok r => exact .inl ⟨r, rfl, by simpa using h.symm⟩
  | error e => exact .inr ⟨e, rfl, by simpa using h.symm⟩

/-- There is nothing to fetch exactly at and above `N` (R100, R101). -/
theorem State.fetch_eq_none_iff (s : State) : s.fetch = none ↔ s.count ≤ s.pc.toNat := by
  simp [State.fetch, State.count]

/-- All a step can do (R100 to R102). -/
theorem step_cases (s : State) :
    (∃ k p o, s.hs = .fault k p o ∧ step s = .fault .coreFaulted) ∨
      (s.hs = .run ∧ s.fetch = none ∧ step s = .fault .runEnded) ∨
        (s.hs = .run ∧ ∃ e, s.fetch = some e ∧
          ((∃ i, decodeEntry s.params.litForm s.labels e = .known i ∧ step s = exec i s) ∨
            (decodeEntry s.params.litForm s.labels e = .unknown ∧ step s = .next (s.raise unknownOperation)) ∨
              ∃ r, decodeEntry s.params.litForm s.labels e = .illFormed r ∧ step s = .refused (.illFormedWord r))) := by
  unfold step
  cases s.hs with
  | fault k p o => exact .inl ⟨_, _, _, rfl, rfl⟩
  | run =>
    cases s.fetch with
    | none => exact .inr (.inl ⟨rfl, rfl, rfl⟩)
    | some e =>
      refine .inr (.inr ⟨rfl, e, rfl, ?_⟩)
      cases hd : decodeEntry s.params.litForm s.labels e with
      | known i => exact .inl ⟨i, rfl, by simp [hd]⟩
      | unknown => exact .inr (.inl ⟨rfl, by simp [hd]⟩)
      | illFormed r => exact .inr (.inr ⟨r, rfl, by simp [hd]⟩)

/-- A step with a next state ran the instruction at `pc`, or raised `UnknownOperation` for it. -/
theorem step_next_cases (s t : State) (h : step s = .next t) :
    s.hs = .run ∧ ∃ e, s.fetch = some e ∧
      ((∃ i, decodeEntry s.params.litForm s.labels e = .known i ∧ exec i s = .next t) ∨
        (decodeEntry s.params.litForm s.labels e = .unknown ∧ t = s.raise unknownOperation)) := by
  rcases step_cases s with ⟨_, _, _, _, h'⟩ | ⟨_, _, h'⟩ | ⟨hs, e, he, ⟨i, hd, h'⟩ | ⟨hd, h'⟩ | ⟨r, _, h'⟩⟩
  · simp [h] at h'
  · simp [h] at h'
  · exact ⟨hs, e, he, .inl ⟨i, hd, by rw [← h', h]⟩⟩
  · rw [h] at h'
    exact ⟨hs, e, he, .inr ⟨hd, by simpa using h'⟩⟩
  · simp [h] at h'

end Sys2Proof.Machine
end

