-- ==== Sys2Proof/Laws/Text.lean ====
section
/-! SUPPORT. Program text: the dispatch table, the label table and what a successful load gives. -/

namespace Sys2Proof.Machine

/-- A mnemonic is outside a dispatch table, with opcode number 31, or stands in it with its opcode number (R72, R82). -/
theorem opcIn_cases (mn : Text) (table : List (Text × BitVec 5)) :
    (opcIn table mn = 31#5 ∧ mn ∉ table.map Prod.fst) ∨ (mn, opcIn table mn) ∈ table := by
  induction table with
  | nil => exact .inl ⟨rfl, by simp⟩
  | cons q rest ih =>
    obtain ⟨n, o⟩ := q
    by_cases h : n = mn
    · subst h
      simp [opcIn]
    · rcases ih with ih | ih
      · simp only [List.mem_map, Prod.exists, exists_and_right, exists_eq_right, not_exists] at ih
        exact .inl (by simp [opcIn, h, ih, Ne.symm h])
      · exact .inr (by simp [opcIn, h, ih])

/-- The word of a text instruction carries the opcode number of its mnemonic (R78, R79). -/
@[simp] theorem opcField_diwOfText (form : LiteralForm) (labels : List (Text × Int)) (mn : Text) (ops : List Text) :
    opcField (diwOfText form labels mn ops) = opcOf mn := by
  unfold diwOfText
  split <;> simp

/-- In a table of unique names, every row is what its name is looked up to (R30). -/
theorem lookupLabel_of_mem (table : List (Text × Int)) (h : (table.map Prod.fst).Nodup) (n : Text) (v : Int)
    (hm : (n, v) ∈ table) : lookupLabel table n = some v := by
  induction table with
  | nil => cases hm
  | cons q rest ih =>
    obtain ⟨m, w⟩ := q
    simp only [List.map_cons, List.nodup_cons] at h
    rcases List.mem_cons.1 hm with hq | hq
    · cases hq
      simp [lookupLabel]
    · have hne : m ≠ n := by
        rintro rfl
        exact h.1 (List.mem_map.2 ⟨_, hq, rfl⟩)
      simp [lookupLabel, hne, ih h.2 hq]

/-- What a successful load says of its stores (R60 to R64). -/
theorem load_ok (sep : Separator) (lines : List Text) (imem : List Entry) (labels : List (Text × Int))
    (h : load sep lines = .ok imem labels) :
    (instructionLines lines).length ≤ maxInstructions ∧ ((labelsFrom 0 lines).map Prod.fst).Nodup ∧
      imem = (instructionLines lines).map (entryOfLine sep) ∧ labels = labelsFrom 0 lines := by
  unfold load at h
  split at h
  · cases h
  · split at h
    · cases h
    · split at h
      · cases h
        exact ⟨by omega, by assumption, rfl, rfl⟩
      · cases h

end Sys2Proof.Machine
end

