-- ==== Sys2Proof/Tests/Slice0.lean ====
section
/-! SUPPORT. Tests. Expected words and results are the spec's own vectors (95_test_vectors.md, named in each comment) or
worked out by hand from a rule. -/

namespace Sys2Proof.Tests

open Sys2Proof Sys2Proof.Machine Sys2Proof.Claims

/-! ## Helpers -/

/-- A reset state whose registers listed hold the given signed values. -/
def regs (rs : List (RegIndex × Int)) : State :=
  { State.reset with x := rs.foldl (fun x q => x.set q.1 (BitVec.ofInt 32 q.2)) State.reset.x }

/-- The state with `OVF = fault`. -/
def faulting (s : State) : State := { s with params := { s.params with ovf := .fault } }

/-- The state with other flags, at `pc = 2`. -/
def flagged (z f : Bool) : State := { State.reset with zf := z, sf := f, pc := 2#32 }

/-- What a test looks at in an outcome: one register, the flags, the program counter and the halt state. -/
def seen (r : RegIndex) : Host.Outcome State Fault Refusal → Option (Int × Bool × Bool × Nat × Halt)
  | .next t => some (t.x[r].toInt, t.zf, t.sf, t.pc.toNat, t.hs)
  | .fault _ => none
  | .refused _ => none

/-- The reset state of a program given as strings, under the defaults. -/
def program (sep : Separator) (lines : List String) : State :=
  match boot { Params.default with sep := sep } (lines.map String.toList) with
  | .started s => s
  | .refused _ => State.reset

/-! ## Well-formedness -/

theorem test_wf_refuses_large_literal_first : (Instr.cmp (.two (.lit 0x80000000#32) (.reg 1))).wf = false := by decide

theorem test_wf_refuses_large_literal_second : (Instr.mov (.two (.reg 0) (.lit 0xffffffff#32))).wf = false := by decide

theorem test_wf_refuses_large_literal_third :
    (Instr.add (.fourPlus .bad (.reg 1) (.lit 0x80000000#32))).wf = false := by decide

theorem test_wf_accepts_largest_literal : (Instr.cmp (.two (.lit 0x7fffffff#32) (.lit 0#32))).wf = true := by decide

/-! ## Decoding: the words of L2-DIW-1 to L2-DIW-24 -/

theorem test_decode_mov : decode 0x00000000000000070000000300000040#128 = .known (.mov (.two (.reg 3) (.reg 7))) := by decide
theorem test_decode_cmp : decode 0x00000000000000090000000100000441#128 = .known (.cmp (.two (.reg 1) (.lit 9#32))) := by decide
theorem test_decode_test : decode 0x00000000000000020000000500000142#128 = .known (.test (.two (.lit 5#32) (.reg 2))) := by decide
theorem test_decode_add : decode 0x00000003000000020000000100000063#128 = .known (.add (.three (.reg 1) (.reg 2) (.reg 3))) := by decide
theorem test_decode_sub : decode 0x00000000000000060000000400000444#128 = .known (.sub (.two (.reg 4) (.lit 6#32))) := by decide
theorem test_decode_mul : decode 0x00000006000000050000000200000165#128 = .known (.mul (.three (.lit 2#32) (.reg 5) (.reg 6))) := by decide
theorem test_decode_div : decode 0x00000000000000030000000700000446#128 = .known (.div (.two (.reg 7) (.lit 3#32))) := by decide
theorem test_decode_and : decode 0x00000000000000090000000800000047#128 = .known (.and (.two (.reg 8) (.reg 9))) := by decide
theorem test_decode_or : decode 0x00000000000000020000000100000568#128 = .known (.or (.three (.lit 1#32) (.lit 2#32) (.reg 0))) := by decide
theorem test_decode_xor : decode 0x000000000000000f0000000200000449#128 = .known (.xor (.two (.reg 2) (.lit 15#32))) := by decide
theorem test_decode_not : decode 0x0000000000000000000000090000002a#128 = .known (.not (.one (.reg 9))) := by decide
theorem test_decode_jmp : decode 0x0000000000000000000000040000022b#128 = .known (.jmp (.one (.label 4#32))) := by decide
theorem test_decode_je : decode 0x0000000000000000ffffffff0000022c#128 = .known (.je (.one (.label 0xffffffff#32))) := by decide
theorem test_decode_jl : decode 0x0000000000000000000000040000022d#128 = .known (.jl (.one (.label 4#32))) := by decide
theorem test_decode_jle : decode 0x0000000000000000000000040000022e#128 = .known (.jle (.one (.label 4#32))) := by decide
theorem test_decode_jg : decode 0x0000000000000000ffffffff0000022f#128 = .known (.jg (.one (.label 0xffffffff#32))) := by decide
theorem test_decode_jge : decode 0x00000000000000000000000400000230#128 = .known (.jge (.one (.label 4#32))) := by decide

/-- L2-DIW-18 and L2-DIW-19. -/
theorem test_decode_unknown : decode 0x3f#128 = .unknown ∧ decode 0x1f#128 = .unknown := by decide

/-- L2-DIW-20, L2-DIW-21, L2-DIW-22 and L2-DIW-23: a bad operand, an undefined label, five operands, one of two. -/
theorem test_decode_error_forms :
    decode 0xc40#128 = .known (.mov (.two (.reg 0) .bad)) ∧ decode 0x32b#128 = .known (.jmp (.one .undefined)) ∧
      decode 0x00000002000000010000000000000083#128 = .known (.add (.fourPlus (.reg 0) (.reg 1) (.reg 2))) ∧
      decode 0x20#128 = .known (.mov (.one (.reg 0))) := by decide

/-- L2-DIW-24, both ways. -/
theorem test_encode_largest_literal :
    encode (.cmp (.two (.lit 0x7fffffff#32) (.lit 0#32))) = 0x00000000000000007fffffff00000541#128 ∧
      decode 0x00000000000000007fffffff00000541#128 = .known (.cmp (.two (.lit 0x7fffffff#32) (.lit 0#32))) := by decide

/-- R83, each refusal by its name: `NOPS = 5`, a reserved bit, an unused value, a label for `mov`, a register for `jmp`,
register 10, literal 2^31, a bad operand with a value. -/
theorem test_decode_refusals :
    decode 0x000000000000000000000000000000a0#128 = .illFormed .operandCount ∧
      decode 0x00000000000000000000000000004020#128 = .illFormed .reservedBits ∧
      decode 0x00000000000000010000000000000020#128 = .illFormed .unusedOperand ∧
      decode 0x00000000000000000000000000000220#128 = .illFormed .operandKind ∧
      decode 0x0000000000000000000000000000002b#128 = .illFormed .operandKind ∧
      decode 0x00000000000000000000000a0000002a#128 = .illFormed .registerNumber ∧
      decode 0x00000000800000000000000000000440#128 = .illFormed .literalRange ∧
      decode 0x00000000000000010000000000000c40#128 = .illFormed .badValue := by decide

/-- The host's view of the table: the bare match word of `jge` is `jge` with no operand; the word of `OPC` 17 is none. -/
theorem test_decode_table_word : decodeTableWord 128 16 = some (.jge .zero) ∧ decodeTableWord 128 17 = none := by decide

/-! ## Text: tokens, lines and labels -/

/-- L2-DIW-4, L2-DIW-13, L2-DIW-18, L2-DIW-20 and L2-DIW-22, from their texts. -/
theorem test_words_of_texts :
    diwOfText .multi [] "add".toList ["r1".toList, "r2".toList, "r3".toList] = 0x00000003000000020000000100000063#128 ∧
      diwOfText .multi [("top".toList, -1)] "je".toList ["top".toList] = 0x0000000000000000ffffffff0000022c#128 ∧
      diwOfText .multi [] "frob".toList ["r0".toList] = 0x3f#128 ∧
      diwOfText .multi [] "mov".toList ["r0".toList, "x".toList] = 0xc40#128 ∧
      diwOfText .multi [] "add".toList ["r0".toList, "r1".toList, "r2".toList, "r3".toList, "r4".toList] =
        0x00000002000000010000000000000083#128 := by decide

/-- L2-LD-21 to L2-LD-25, `LIT_FORM = multi`. -/
theorem test_token_classes_multi :
    ["r0", "r9", "r10", "R1", "r", " r1", "0", "007", "2147483647", "2147483648", "-1", ""].map
        (fun t => classify .multi t.toList) =
      [.reg 0, .reg 9, .bad, .bad, .bad, .bad, .lit 0#32, .lit 7#32, .lit 2147483647#32, .bad, .bad, .bad] := by decide

/-- L2-LD-23 and L2-LD-24, `LIT_FORM = single`. -/
theorem test_token_classes_single :
    ["5", "10", "007"].map (fun t => classify .single t.toList) = [.lit 5#32, .bad, .bad] := by decide

/-- L2-LD-1 to L2-LD-7 and L2-LD-9, `SEP = literal`. -/
theorem test_split_literal :
    ["r0, 5", "r0,5", "r0,  5", "r0,1,r0", "r0, ", "a,,b", ", 5"].map (fun t => splitLiteral t.toList) =
      [["r0", "5"], ["r0", ""], ["r0", " 5"], ["r0", "", "0"], ["r0", ""], ["a", "b"], ["", "5"]].map
        (fun l => l.map String.toList) := by decide

/-- L2-LD-2, L2-LD-3, L2-LD-5, L2-LD-6, L2-LD-7 and L2-LD-8, `SEP = trim`. -/
theorem test_split_trim :
    ["r0,5", "r0,  5", "r0,1,r0", "r0, ", "a,,b", ""].map (fun t => splitTrim t.toList) =
      [["r0", "5"], ["r0", "5"], ["r0", "1", "r0"], ["r0", ""], ["a", "", "b"], []].map
        (fun l => l.map String.toList) := by decide

/-- L2-LD-11, L2-LD-14, L2-LD-16 and L2-LD-17 under both modes. -/
theorem test_split_line :
    splitLine .literal "mov  r0, 5".toList = ("mov".toList, [" r0".toList, "5".toList]) ∧
      splitLine .trim "mov  r0, 5".toList = ("mov".toList, ["r0".toList, "5".toList]) ∧
      splitLine .literal "  add r0,1,r0".toList = ([], [" add r0".toList, [], "0".toList]) ∧
      splitLine .trim "  add r0,1,r0".toList = ("add".toList, ["r0".toList, "1".toList, "r0".toList]) ∧
      splitLine .literal "mov ".toList = ("mov".toList, []) ∧ splitLine .trim "mov ".toList = ("mov".toList, []) ∧
      splitLine .literal "not r0,".toList = ("not".toList, ["r0".toList, []]) := by decide

/-- L2-LD-18: label values and the number of instructions. -/
theorem test_label_values :
    (program .literal ["a:", "mov r0, 1", "b:", "c:", "add r0, 1", "d:"]).labels =
        [("a".toList, -1), ("b".toList, 0), ("c".toList, 0), ("d".toList, 1)] ∧
      (program .literal ["a:", "mov r0, 1", "b:", "c:", "add r0, 1", "d:"]).imem.length = 2 := by decide

/-- L2-LD-20: a line that ends in a space is no label line. -/
theorem test_trailing_space_is_no_label :
    load .literal ["loop:".toList, "loop: ".toList] = .ok [.text "loop:".toList []] [("loop".toList, -1)] := by decide

/-- L2-X-10: a duplicate label, and R61: a label with a colon or no name. -/
theorem test_load_failures :
    load .literal ["a:".toList, "mov r0, 1".toList, "a:".toList] = .duplicateLabel ∧
      load .literal ["a:b:".toList] = .refused .labelGrammar ∧ load .literal [":".toList] = .refused .labelGrammar := by
  decide

/-! ## One instruction each (L2-MOV to L2-J) -/

/-- L2-MOV-3. -/
theorem test_mov_register :
    seen 1 (exec (.mov (.two (.reg 1) (.reg 2))) (regs [(2, -5)])) = some (-5, true, false, 1, .run) := by decide
/-- L2-MOV-14: the destination is checked first. -/
theorem test_mov_destination_first :
    seen 0 (exec (.mov (.two (.lit 5#32) .bad)) (regs [])) = some (0, false, false, 0, .fault .operandError 0#32 (some 0)) := by decide
/-- L2-CMP-5. -/
theorem test_cmp_wraps :
    seen 1 (exec (.cmp (.two (.reg 1) (.lit 1#32))) (regs [(1, -2147483648)])) =
      some (-2147483648, false, false, 1, .run) := by decide
/-- L2-CMP-6. -/
theorem test_cmp_overflow_fault :
    seen 1 (exec (.cmp (.two (.reg 1) (.lit 1#32))) (faulting (regs [(1, -2147483648)]))) =
      some (-2147483648, false, false, 0, .fault .overflow 0#32 none) := by decide
/-- L2-TEST-4. -/
theorem test_test_negative :
    seen 1 (exec (.test (.two (.reg 1) (.reg 2))) (regs [(1, -1), (2, -8)])) = some (-1, false, true, 1, .run) := by decide
/-- L2-ADD-6. -/
theorem test_add_wraps :
    seen 0 (exec (.add (.two (.reg 0) (.lit 1#32))) (regs [(0, 2147483647)])) =
      some (-2147483648, false, true, 1, .run) := by decide
/-- L2-ADD-10: the destination before the sources. -/
theorem test_add_destination_before_sources :
    seen 0 (exec (.add (.three (.reg 0) .bad (.lit 5#32))) (regs [])) =
      some (0, false, false, 0, .fault .operandError 0#32 (some 2)) := by decide
/-- L2-SUB-2: operand 0 minus operand 1. -/
theorem test_sub_order :
    seen 2 (exec (.sub (.three (.lit 9#32) (.reg 1) (.reg 2))) (regs [(1, 4)])) = some (5, false, false, 1, .run) := by decide
/-- L2-MUL-5. -/
theorem test_mul_wraps :
    seen 1 (exec (.mul (.two (.reg 1) (.reg 1))) (regs [(1, 46341)])) = some (-2147479015, false, true, 1, .run) := by decide
/-- L2-DIV-4: toward zero. -/
theorem test_div_toward_zero :
    seen 1 (exec (.div (.two (.reg 1) (.reg 2))) (regs [(1, 7), (2, -2)])) = some (-3, false, true, 1, .run) := by decide
/-- L2-DIV-16: the destination is not written. -/
theorem test_div_by_zero :
    seen 2 (exec (.div (.three (.reg 1) (.lit 0#32) (.reg 2))) (regs [(2, 9)])) =
      some (9, false, false, 0, .fault .divideByZero 0#32 (some 1)) := by decide
/-- L2-AND-2. -/
theorem test_and :
    seen 1 (exec (.and (.two (.reg 1) (.lit 3#32))) (regs [(1, -6)])) = some (2, false, false, 1, .run) := by decide
/-- L2-OR-2. -/
theorem test_or :
    seen 1 (exec (.or (.two (.reg 1) (.lit 1#32))) (regs [(1, -6)])) = some (-5, false, true, 1, .run) := by decide
/-- L2-XOR-1. -/
theorem test_xor :
    seen 3 (exec (.xor (.three (.reg 2) (.lit 5#32) (.reg 3))) (regs [(2, -1)])) = some (-6, false, true, 1, .run) := by decide
/-- L2-NOT-3: logical, not bitwise. -/
theorem test_not_negative :
    seen 3 (exec (.not (.one (.reg 3))) (regs [(3, -1)])) = some (0, true, false, 1, .run) := by decide
/-- L2-J-4. -/
theorem test_jmp : seen 0 (exec (.jmp (.one (.label 5#32))) (flagged true true)) = some (0, false, false, 6, .run) := by decide
/-- L2-J-6 and L2-J-7. -/
theorem test_je :
    seen 0 (exec (.je (.one (.label 5#32))) (flagged true false)) = some (0, true, false, 3, .run) ∧
      seen 0 (exec (.je (.one (.label 5#32))) (flagged false true)) = some (0, false, false, 6, .run) := by decide
/-- L2-J-11 and L2-J-12. -/
theorem test_jl :
    seen 0 (exec (.jl (.one (.label 5#32))) (flagged false true)) = some (0, false, false, 6, .run) ∧
      seen 0 (exec (.jl (.one (.label 5#32))) (flagged true true)) = some (0, true, false, 3, .run) := by decide
/-- L2-J-15 and L2-J-16. -/
theorem test_jle :
    seen 0 (exec (.jle (.one (.label 5#32))) (flagged false true)) = some (0, true, false, 3, .run) ∧
      seen 0 (exec (.jle (.one (.label 5#32))) (flagged true true)) = some (0, false, false, 6, .run) := by decide
/-- L2-J-17 and L2-J-19: a taken `jg` reports "not jumped". -/
theorem test_jg :
    seen 0 (exec (.jg (.one (.label 5#32))) (flagged false false)) = some (0, true, false, 6, .run) ∧
      seen 0 (exec (.jg (.one (.label 5#32))) (flagged false true)) = some (0, true, false, 3, .run) := by decide
/-- L2-J-22 and L2-J-21. -/
theorem test_jge :
    seen 0 (exec (.jge (.one (.label 5#32))) (flagged true false)) = some (0, false, false, 6, .run) ∧
      seen 0 (exec (.jge (.one (.label 5#32))) (flagged false false)) = some (0, true, false, 3, .run) := by decide

/-! ## Single steps -/

/-- P6, step 3: a taken jump to the label −1 continues at 0. -/
theorem test_step_jump_to_top :
    seen 0 (step { program .literal ["start:", "add r0, 1", "cmp r0, 2", "jl start"] with pc := 2#32, sf := true }) =
      some (0, false, false, 0, .run) := by decide

/-- L1-2: the first line of the worked example as printed, under each separator mode. -/
theorem test_step_as_printed :
    seen 0 (step (program .literal ["mov r0,0"])) = some (0, false, false, 0, .fault .operandError 0#32 (some 1)) ∧
      seen 0 (step (program .trim ["mov r0,0"])) = some (0, true, false, 1, .run) := by decide

/-- L2-X-1: an undefined label. -/
theorem test_step_undefined_label :
    seen 0 (step (program .literal ["jmp nowhere"])) = some (0, false, false, 0, .fault .unknownLabel 0#32 (some 0)) := by
  decide

/-- L2-X-7: an empty line. -/
theorem test_step_empty_line :
    seen 0 (step (program .literal [""])) = some (0, false, false, 0, .fault .unknownOperation 0#32 none) := by decide

/-- L2-X-9: the count is checked before bad operands. -/
theorem test_step_count_before_operands :
    seen 0 (step (program .literal ["add 1, 2, 3, 4"])) = some (0, false, false, 0, .fault .arityError 0#32 none) := by
  decide

/-- L2-X-12: the empty program has ended at reset. -/
theorem test_step_empty_program : step State.reset = .fault .runEnded := rfl

/-- A word the host places runs as the first instruction after reset (L2-MOV-1). -/
theorem test_step_placed_word :
    seen 2 (step (State.reset.withFetchWord 128 0x00000000000000070000000200000440)) = some (7, true, false, 1, .run) := by
  decide

/-- P7: what the host reads after the fault, code 3. -/
theorem test_view_after_fault :
    ((regs []).raise divideByZero).view.code = 3 ∧ ((regs []).raise divideByZero).view.status = .fault := by decide

/-! ## Witnesses: a concrete instance of the hypotheses of each statement, for each of its clauses -/

/-- A state about to execute the entry `e`. -/
def about (e : Entry) : State := { State.reset with imem := [e] }

/-- The operands and source values the arithmetic statements suppose. -/
abbrev AluMeets (s : State) (ops : Operands Src) (k : OperandIndex) (d : RegIndex) (a b : Src) (va vb : Int) : Prop :=
  aluParts ops = some (k, .reg d, a, b) ∧ srcValue s a = some (BitVec.ofInt 32 va) ∧
    srcValue s b = some (BitVec.ofInt 32 vb)

theorem witness_DecodeInvertsEncode : (Instr.add (.fourPlus (.reg 9) (.lit 0x7fffffff#32) .bad)).wf = true := by decide

theorem witness_EncodeInvertsDecode :
    decode 0x00000000000000007fffffff00000541#128 = .known (.cmp (.two (.lit 0x7fffffff#32) (.lit 0#32))) := by decide

theorem witness_OpcodeFieldSelectsOperation_known : decode 0x10#128 = .known (.jge .zero) := by decide

theorem witness_OpcodeFieldSelectsOperation_unknown :
    decode 0x11#128 = .unknown ∧ decode 0x1e#128 = .unknown ∧ decode 0x1f#128 = .unknown := by decide

/-- `NOPS = 5`, and a reserved bit. -/
theorem witness_IllFormedWordsAreRefused_fields : NamedIllFormed 0xa0#128 ∧ NamedIllFormed 0x4000#128 :=
  ⟨.inl (by decide), .inr (.inl (by decide))⟩

/-- An unused kind, and an unused value at position 2 of a two-operand word. -/
theorem witness_IllFormedWordsAreRefused_unused :
    NamedIllFormed 0x100#128 ∧ NamedIllFormed 0x00000001000000000000000000000040#128 :=
  ⟨.inr (.inr ⟨0, slot0 _, .inl ⟨rfl, rfl⟩, by decide⟩), .inr (.inr ⟨2, slot2 _, .inr (.inr ⟨rfl, rfl⟩), by decide⟩)⟩

/-- A label kind under `OPC` 10 and under 31. -/
theorem witness_IllFormedWordsAreRefused_label_kind : NamedIllFormed 0x22a#128 ∧ NamedIllFormed 0x23f#128 :=
  ⟨.inr (.inr ⟨0, slot0 _, .inl ⟨rfl, rfl⟩, by decide⟩), .inr (.inr ⟨0, slot0 _, .inl ⟨rfl, rfl⟩, by decide⟩)⟩

/-- A register kind under `OPC` 11, and a literal kind under 16. -/
theorem witness_IllFormedWordsAreRefused_operand_kind : NamedIllFormed 0x2b#128 ∧ NamedIllFormed 0x130#128 :=
  ⟨.inr (.inr ⟨0, slot0 _, .inl ⟨rfl, rfl⟩, by decide⟩), .inr (.inr ⟨0, slot0 _, .inl ⟨rfl, rfl⟩, by decide⟩)⟩

/-- Register 10 at position 1, and the literal `2^31` at position 0. -/
theorem witness_IllFormedWordsAreRefused_value :
    NamedIllFormed 0x000000000000000a0000000000000040#128 ∧ NamedIllFormed 0x00000000000000008000000000000141#128 :=
  ⟨.inr (.inr ⟨1, slot1 _, .inr (.inl ⟨rfl, rfl⟩), by decide⟩), .inr (.inr ⟨0, slot0 _, .inl ⟨rfl, rfl⟩, by decide⟩)⟩

theorem witness_IllFormedWordsAreRefused_step :
    (about (.word 0xa0#128)).hs = .run ∧ (about (.word 0xa0#128)).fetch = some (.word 0xa0#128) := by decide

theorem witness_ReservedOpcodesAreUnknownOperations_mnemonic :
    "Mov".toList ∉ mnemonics ∧ "mov".toList ∈ mnemonics ∧ "jge".toList ∈ mnemonics := by decide

/-- `OPC` 17 with a label operand. -/
theorem witness_ReservedOpcodesAreUnknownOperations_label :
    17 ≤ (opcField 0x231#128).toNat ∧ ¬NamedIllFormed 0x231#128 ∧ BadValuesAreZero 0x231#128 := by
  refine ⟨by decide, ?_, ?_⟩
  · rintro (h | h | ⟨k, c, ⟨rfl, rfl⟩ | ⟨rfl, rfl⟩ | ⟨rfl, rfl⟩, h⟩) <;> revert h <;> decide
  · rintro k c (⟨rfl, rfl⟩ | ⟨rfl, rfl⟩ | ⟨rfl, rfl⟩) <;> decide

/-- `OPC` 31 with a bad operand, in a state that fetches it. -/
theorem witness_ReservedOpcodesAreUnknownOperations_bad :
    17 ≤ (opcField 0x33f#128).toNat ∧ ¬NamedIllFormed 0x33f#128 ∧ BadValuesAreZero 0x33f#128 ∧
      (about (.word 0x33f#128)).hs = .run ∧ (about (.word 0x33f#128)).fetch = some (.word 0x33f#128) := by
  refine ⟨by decide, ?_, ?_, by decide, by decide⟩
  · rintro (h | h | ⟨k, c, ⟨rfl, rfl⟩ | ⟨rfl, rfl⟩ | ⟨rfl, rfl⟩, h⟩) <;> revert h <;> decide
  · rintro k c (⟨rfl, rfl⟩ | ⟨rfl, rfl⟩ | ⟨rfl, rfl⟩) <;> decide

theorem witness_MnemonicsDispatchExactly :
    (about (.text "MOV".toList [])).hs = .run ∧
      (about (.text "MOV".toList [])).fetch = some (.text "MOV".toList []) ∧ "MOV".toList ∉ mnemonics := by decide

theorem witness_MnemonicsDispatchExactly_operands :
    (∃ q ∈ srcMnemonics, q.1 = "not".toList) ∧ ∃ q ∈ jumpMnemonics, q.1 = "jge".toList := by
  simp [srcMnemonics, jumpMnemonics]

/-- A table with two names, a name outside it, and the same of a loaded program. -/
theorem witness_LabelOperandsAreLookedUp :
    ([("a".toList, (-1 : Int)), ("b".toList, 0)].map Prod.fst).Nodup ∧
      ("a".toList, -1) ∈ [("a".toList, (-1 : Int)), ("b".toList, 0)] ∧
      (∀ v, ("A".toList, v) ∉ [("a".toList, (-1 : Int)), ("b".toList, 0)]) ∧
      boot Params.default ["jmp c".toList] = .started (about (.text "jmp".toList ["c".toList])) ∧
      "c".toList ++ [':'] ∉ ["jmp c".toList] ∧
      (about (.text "jmp".toList ["c".toList])).fetch = some (.text "jmp".toList ["c".toList]) ∧
      ∃ q ∈ jumpMnemonics, q.1 = "jmp".toList :=
  ⟨by decide, by decide, fun v => by simp, rfl, by decide, rfl, by simp [jumpMnemonics]⟩

/-- Both directions of the register tokens, at the two ends. -/
theorem witness_RegisterTokensAreExact :
    classify .single "r0".toList = .reg 0 ∧ "r9".toList = ['r', Char.ofNat (48 + (9 : RegIndex).val)] := by decide

/-- Both directions of the literal tokens: the largest, and one digit under `LIT_FORM = single`. -/
theorem witness_LiteralTokensAreExact :
    classify .multi ['2', '1', '4', '7', '4', '8', '3', '6', '4', '7'] = .lit 2147483647#32 ∧
      AllDigits ['9'] ∧ decimalValue ['9'] ≤ 2147483647 ∧ ['9'].length = 1 ∧ (9#32).toNat = decimalValue ['9'] := by
  refine ⟨by decide, by simp [AllDigits], by decide, by decide, by decide⟩

theorem witness_CanonicalLinesSplitAlike :
    Plain ['a', 'd', 'd'] ∧ ∀ t ∈ [['r', '0'], ['1'], ['r', '0']], Plain t := by simp [Plain]

/-- `SEP = literal`: a tab in the mnemonic, a second space in the operand text, the empty mnemonic, no space at all. -/
theorem witness_LinesSplitAtTheirMnemonic_literal :
    ' ' ∉ ['m', '\t'] ∧ ['m', '\t'] ++ ' ' :: [' ', '5'] = ['m', '\t', ' ', ' ', '5'] ∧ ' ' ∉ ([] : Text) := by simp

/-- `SEP = trim`: leading blanks, then a mnemonic, then nothing or a text that starts with a tab. -/
theorem witness_LinesSplitAtTheirMnemonic_trim :
    (∀ c ∈ [' ', '\t'], Blank c) ∧ ['m'] ≠ [] ∧ (∀ c ∈ ['m'], ¬Blank c) ∧
      (∀ c, ([] : Text).head? = some c → Blank c) ∧ ∀ c, ['\t', '5'].head? = some c → Blank c := by
  simp [Blank, eq_comm]

/-- An empty and a non-empty token, and a non-empty rest. -/
theorem witness_LiteralSplitDiscardsOneCharacter :
    ',' ∉ ([] : Text) ∧ ',' ∉ ['r', '0'] ∧ ['r', '0'] ≠ [] ∧ ['5'] ≠ [] := by simp

theorem witness_TrimSplitTrimsPieces_blank : ∀ c ∈ [' ', '\t'], c = ' ' ∨ c = '\t' := by simp

theorem witness_TrimSplitTrimsPieces_pieces :
    [['r', '0', ' '], [' ', '5']] ≠ [] ∧ (∀ p ∈ [['r', '0', ' '], [' ', '5']], ',' ∉ p) ∧
      ∃ c ∈ [','].intercalate [['r', '0', ' '], [' ', '5']], c ≠ ' ' ∧ c ≠ '\t' := by simp [List.intercalate]

/-- A label at the top, and one after the last instruction. -/
theorem witness_LabelValuesCountInstructions :
    load .literal ([] ++ "a:".toList :: ["jmp".toList, "b:".toList]) =
        .ok [.text "jmp".toList []] [("a".toList, -1), ("b".toList, 0)] ∧
      load .literal (["a:".toList, "jmp".toList] ++ "b:".toList :: []) =
        .ok [.text "jmp".toList []] [("a".toList, -1), ("b".toList, 0)] ∧
      IsLabel "a:".toList ∧ IsLabel "b:".toList := by decide

/-- The empty line is an instruction. -/
theorem witness_InstructionLinesAreDense :
    load .trim (["a:".toList] ++ [] :: ["b:".toList]) = .ok [.text [] []] [("a".toList, -1), ("b".toList, 0)] ∧
      ¬IsLabel ([] : Text) := by decide

theorem witness_DuplicateLabelFailsTheLoad :
    IsLabel "a:".toList ∧
      (∀ k ∈ [] ++ "a:".toList :: ["jmp a".toList] ++ "a:".toList :: [], IsLabel k →
        k.dropLast ≠ [] ∧ ':' ∉ k.dropLast) ∧
      instrCount ([] ++ "a:".toList :: ["jmp a".toList] ++ "a:".toList :: []) ≤ maxInstructions := by decide

/-- An empty name, and a colon in a name. -/
theorem witness_BadLabelLinesAreRefused :
    ":".toList ∈ [":".toList] ∧ IsLabel ":".toList ∧ ":".toList.dropLast = [] ∧ "a:b:".toList ∈ ["a:b:".toList] ∧
      IsLabel "a:b:".toList ∧ ':' ∈ "a:b:".toList.dropLast := by decide

theorem witness_GrammaticalProgramsStartUnlessTooLong_starts :
    LabelsKeepTheGrammar ["a:".toList, "jmp a".toList, "b:".toList] ∧
      instrCount ["a:".toList, "jmp a".toList, "b:".toList] ≤ maxInstructions ∧
      LabelsAreDistinct ["a:".toList, "jmp a".toList, "b:".toList] :=
  ⟨by unfold LabelsKeepTheGrammar; decide, by decide, by unfold LabelsAreDistinct; decide⟩

/-- One instruction line too many. -/
theorem witness_GrammaticalProgramsStartUnlessTooLong_refused :
    LabelsKeepTheGrammar (List.replicate (maxInstructions + 1) []) ∧
      maxInstructions < instrCount (List.replicate (maxInstructions + 1) []) := by
  refine ⟨fun k hk hl => ?_, ?_⟩
  · obtain rfl := List.eq_of_mem_replicate hk
    cases hl
  · simp [instrCount, List.countP_replicate]

/-- A load that succeeds, and one that fails. -/
theorem witness_BootResetsTheCore :
    boot Params.default ["a:".toList] = .started (State.resetWith Params.default [] [("a".toList, -1)] .run) ∧
      boot Params.default ["a:".toList, "a:".toList] =
        .started (State.resetWith Params.default [] [] (.fault .duplicateLabel 0#32 none)) := ⟨rfl, rfl⟩

/-- A label at the top, and one after the last instruction. -/
theorem witness_JumpLandsAfterItsLabel :
    boot Params.default ([] ++ "a:".toList :: ["jmp a".toList]) =
        .started (State.resetWith Params.default [.text "jmp".toList ["a".toList]] [("a".toList, -1)] .run) ∧
      boot Params.default (["jmp b".toList] ++ "b:".toList :: []) =
        .started (State.resetWith Params.default [.text "jmp".toList ["b".toList]] [("b".toList, 0)] .run) := ⟨rfl, rfl⟩

/-- A text entry and a word. -/
theorem witness_StepRunsTheDecodedInstruction :
    (about (.text "not".toList ["r9".toList])).hs = .run ∧
      (about (.text "not".toList ["r9".toList])).imem[(0#32 : Pc).toNat]? = some (.text "not".toList ["r9".toList]) ∧
      decodes (about (.text "not".toList ["r9".toList])) (.text "not".toList ["r9".toList]) = .known (.not (.one (.reg 9))) ∧
      decodes (about (.word 0x2a#128)) (.word 0x2a#128) = .known (.not (.one (.reg 0))) := by decide

theorem witness_PlacedWordRunsNext :
    0x0000000000000000ffffffff0000022b < 2 ^ 128 ∧
      decode (BitVec.ofNat 128 0x0000000000000000ffffffff0000022b) = .known (.jmp (.one (.label 0xffffffff#32))) := by
  decide

/-- `pc` at `N − 1` and at `N`, a faulted core, a word that is well formed and one that is not. -/
theorem witness_StepExistsExactlyWhileRunning :
    (about (.word 0x2a#128)).hs = .run ∧ (about (.word 0x2a#128)).pc.toNat < (about (.word 0x2a#128)).count ∧
      decode 0x2a#128 = .known (.not (.one (.reg 0))) ∧ decode 0xa0#128 = .illFormed .operandCount ∧
      ((about (.text [] [])).setPc 1#32).count ≤ ((about (.text [] [])).setPc 1#32).pc.toNat ∧
      ((about (.text [] [])).raise arityError).hs ≠ .run := by decide

theorem witness_FatalErrorsArePrecise :
    step (about (.text [] [])) = .next ((about (.text [] [])).raise unknownOperation) ∧
      ((about (.text [] [])).raise unknownOperation).hs ≠ .run := ⟨rfl, by decide⟩

/-- An error with an operand, and one under `OVF = fault`. -/
theorem witness_ErrorKindsFollowTheTable_exec :
    exec (.div (.two (.reg 0) (.lit 0#32))) State.reset = .next (faulted State.reset .divideByZero (some 1)) ∧
      (faulted State.reset .divideByZero (some 1)).hs = .fault .divideByZero 0#32 (some 1) ∧
      exec (.add (.two (.reg 0) (.lit 1#32))) (faulting (regs [(0, 2147483647)])) =
        .next (faulted (faulting (regs [(0, 2147483647)])) .overflow none) := ⟨rfl, rfl, rfl⟩

theorem witness_ErrorKindsFollowTheTable_boot :
    boot Params.default ["a:".toList, "a:".toList] =
      .started (State.resetWith Params.default [] [] (.fault .duplicateLabel 0#32 none)) := rfl

/-- Every shape of count: one too few and one too many. -/
theorem witness_WrongOperandCountIsArityError :
    ¬acceptsCount (.mov (.one .bad)) ∧ ¬acceptsCount (.cmp (.three .bad .bad .bad)) ∧
      ¬acceptsCount (.add (.one (.reg 0))) ∧ ¬acceptsCount (.xor (.fourPlus (.reg 0) (.reg 0) (.reg 0))) ∧
      ¬acceptsCount (.not .zero) ∧ ¬acceptsCount (.jge (.two .undefined .undefined)) := by
  simp [acceptsCount, operandCount]

theorem witness_OnlyTheDestinationIsWritten :
    exec (.not (.one (.reg 3))) State.reset =
        .next (completed State.reset (State.reset.x.set 3 1#32) 1#32 1#32) ∧
      destOf (.not (.one (.reg 3))) ≠ some 2 ∧ destOf (.cmp (.two (.reg 0) (.reg 1))) ≠ some 0 := ⟨rfl, by decide, by decide⟩

/-- An instruction that completes, and one that takes its error. -/
theorem witness_OnlyConditionalJumpsReadFlags :
    ¬readsFlags (.jmp (.one (.label 4#32))) ∧
      exec (.jmp (.one (.label 4#32))) State.reset = .next (jumped State.reset false 4#32) ∧
      (jumped State.reset false 4#32).hs = .run ∧ ¬readsFlags (.jmp .zero) ∧
      exec (.jmp .zero) State.reset = .next (faulted State.reset .arityError none) ∧
      (faulted State.reset .arityError none).hs ≠ .run := ⟨id, rfl, rfl, id, rfl, by decide⟩

/-- A jump to the top, and an instruction that goes on. -/
theorem witness_PcAdvancesOrJumpsPastALabel :
    exec (.jmp (.one (.label 0xffffffff#32))) (flagged false false) =
        .next (jumped (flagged false false) false 0xffffffff#32) ∧
      exec (.je (.one (.label 5#32))) (flagged true false) = .next (notJumped (flagged true false)) ∧
      (notJumped (flagged true false)).hs = .run := ⟨rfl, rfl, rfl⟩

theorem witness_StoresAreReadOnly :
    step (about (.word 0x2a#128)) = .next (completed (about (.word 0x2a#128)) (State.reset.x.set 0 1#32) 1#32 1#32) := rfl

theorem witness_StepKeepsTheInvariant :
    (about (.text "not".toList ["r0".toList])).Inv ∧
      step (about (.text "not".toList ["r0".toList])) =
        .next (completed (about (.text "not".toList ["r0".toList])) (State.reset.x.set 0 1#32) 1#32 1#32) := by
  refine ⟨⟨by decide, by decide, by decide, ⟨fun n v h => (by cases h), fun w i v h => ?_⟩, by decide, trivial⟩, rfl⟩
  simp [about] at h

/-- A step of a jump word whose label value is in range, from a state in the invariant. -/
theorem witness_StepKeepsTheInvariant_word :
    (about (.word 0x0000000000000000ffffffff0000022b#128)).Inv ∧
      step (about (.word 0x0000000000000000ffffffff0000022b#128)) =
        .next (jumped (about (.word 0x0000000000000000ffffffff0000022b#128)) false 0xffffffff#32) := by
  refine ⟨⟨by decide, by decide, by decide, ⟨fun n v h => (by cases h), fun w i v h hd hv => ?_⟩, by decide, trivial⟩, rfl⟩
  obtain rfl : w = 0x0000000000000000ffffffff0000022b#128 := by simpa [about] using h
  obtain rfl : Instr.jmp (.one (.label 0xffffffff#32)) = i := by
    have hw : decode 0x0000000000000000ffffffff0000022b#128 = .known (.jmp (.one (.label 0xffffffff#32))) := by decide
    rw [hw] at hd
    cases hd
    rfl
  obtain rfl : v = 0xffffffff#32 := by simpa [labelValues, targetValues, Target.values] using hv
  exact ⟨by decide, by decide⟩

/-- A load that fails. -/
theorem witness_BootMeetsTheInvariant_failed :
    boot Params.default ["a:".toList, "a:".toList] =
      .started (State.resetWith Params.default [] [] (.fault .duplicateLabel 0#32 none)) := rfl

theorem witness_BootMeetsTheInvariant :
    boot Params.default ["a:".toList, "jmp a".toList] =
      .started (State.resetWith Params.default [.text "jmp".toList ["a".toList]] [("a".toList, -1)] .run) := rfl

/-- The end of a run, at `pc = N = 0` and by the empty program. -/
theorem witness_RunsEndExactlyAtN :
    State.reset.Inv ∧ State.reset.hs = .run ∧ State.reset.count ≤ State.reset.pc.toNat ∧
      boot Params.default [] = .started State.reset :=
  ⟨⟨by decide, by decide, by decide, ⟨fun n v h => (by cases h), fun w i v h => by cases h⟩, by decide, trivial⟩,
    rfl, by decide, rfl⟩

/-- The three statuses: `pc = N`, a fault, `pc = N − 1`. -/
theorem witness_StatusIsDerived :
    State.reset.status = .done ∧ (State.reset.raise arityError).status = .fault ∧
      (about (.text [] [])).status = .running := by decide

/-- Each clause of `mov`: a wrong count, a destination that is no register, a bad source, both kinds of source. -/
theorem witness_MovMovesItsSource :
    operandCount (Operands.three Src.bad .bad .bad) ≠ 2 ∧ (∀ d, Src.lit 0#32 ≠ .reg d) ∧
      srcValue State.reset .bad = none ∧ srcValue State.reset (.lit 0x7fffffff#32) = some 0x7fffffff#32 ∧
      srcValue (regs [(9, -1)]) (.reg 9) = some 0xffffffff#32 := by decide

/-- The error clauses of `CompareErrors` (for `cmp` and `test`). -/
theorem witness_CompareErrors :
    operandCount (Operands.one Src.bad) ≠ 2 ∧ operandCount (Operands.three Src.bad .bad .bad) ≠ 2 ∧
      srcValue State.reset .bad = none ∧ srcValue State.reset (.lit 0#32) ≠ none := by decide

/-- The smallest difference that fits and the first that does not; the same under `wrap`. -/
theorem witness_CmpSetsFlagsFromTheDifference :
    srcValue (faulting (regs [(1, -2147483648)])) (.reg 1) = some 0x80000000#32 ∧
      srcValue (faulting (regs [(1, -2147483648)])) (.lit 1#32) = some 1#32 ∧
      Fits ((0x80000000#32).toInt - (0#32).toInt) ∧ ¬Fits ((0x80000000#32).toInt - (1#32).toInt) ∧
      (faulting (regs [])).params.ovf = .fault ∧ (regs []).params.ovf = .wrap := by decide

theorem witness_CmpFlagsSayTheOrder :
    srcValue State.reset (.lit 1#32) = some 1#32 ∧ srcValue State.reset (.lit 2#32) = some 2#32 ∧
      exec (.cmp (.two (.lit 1#32) (.lit 2#32))) State.reset = .next (completed State.reset State.reset.x 0xffffffff#32 1#32) ∧
      (completed State.reset State.reset.x 0xffffffff#32 1#32).hs = .run ∧ Fits ((1#32).toInt - (2#32).toInt) :=
  ⟨rfl, rfl, rfl, rfl, by decide⟩

theorem witness_TestSetsFlagsFromTheAnd :
    srcValue (regs [(1, -1)]) (.reg 1) = some 0xffffffff#32 ∧ srcValue (regs [(1, -1)]) (.lit 0#32) = some 0#32 := by decide

/-- The count clause of `AluErrors` (for the seven two- or three-operand instructions). -/
theorem witness_AluErrors_count :
    aluParts .zero = none ∧ aluParts (.one (.reg 0)) = none ∧ aluParts (.fourPlus (.reg 0) (.reg 0) (.reg 0)) = none := by
  decide

/-- The destination clause of `AluErrors`, in both forms. -/
theorem witness_AluErrors_destination :
    aluParts (.two .bad (.reg 0)) = some (0, .bad, .bad, .reg 0) ∧ (∀ d, Src.bad ≠ .reg d) ∧
      aluParts (.three .bad .bad (.lit 5#32)) = some (2, .lit 5#32, .bad, .bad) ∧ ∀ d, Src.lit 5#32 ≠ .reg d := by decide

/-- The source clauses of `AluErrors`: source 0, which is bad only in the three-operand form, and source 1 in both. -/
theorem witness_AluErrors_sources :
    aluParts (.three .bad .bad (.reg 9)) = some (2, .reg 9, .bad, .bad) ∧ srcValue State.reset .bad = none ∧
      aluParts (.two (.reg 9) .bad) = some (0, .reg 9, .reg 9, .bad) ∧ srcValue State.reset (.reg 9) ≠ none ∧
      aluParts (.three (.lit 1#32) .bad (.reg 9)) = some (2, .reg 9, .lit 1#32, .bad) ∧
      srcValue State.reset (.lit 1#32) ≠ none := by decide

/-- The largest sum that fits, the first that does not, and that one under `wrap`. -/
theorem witness_AddWritesTheSum :
    AluMeets (faulting (regs [(0, 2147483647)])) (.two (.reg 0) (.lit 0#32)) 0 0 (.reg 0) (.lit 0#32) 2147483647 0 ∧
      Fits (2147483647 + 0) ∧
      AluMeets (faulting (regs [(0, 2147483647)])) (.three (.reg 0) (.lit 1#32) (.reg 1)) 2 1 (.reg 0) (.lit 1#32)
        2147483647 1 ∧
      ¬Fits (2147483647 + 1) ∧
      AluMeets (regs [(0, 2147483647)]) (.two (.reg 0) (.lit 1#32)) 0 0 (.reg 0) (.lit 1#32) 2147483647 1 := by decide

/-- The smallest difference that fits, the first that does not, and that one under `wrap`. -/
theorem witness_SubWritesTheDifference :
    AluMeets (faulting (regs [(0, -2147483648)])) (.two (.reg 0) (.lit 0#32)) 0 0 (.reg 0) (.lit 0#32) (-2147483648) 0 ∧
      Fits (-2147483648 - 0) ∧
      AluMeets (faulting (regs [(0, -2147483648)])) (.three (.reg 0) (.lit 1#32) (.reg 1)) 2 1 (.reg 0) (.lit 1#32)
        (-2147483648) 1 ∧
      ¬Fits (-2147483648 - 1) ∧
      AluMeets (regs [(0, -2147483648)]) (.two (.reg 0) (.lit 1#32)) 0 0 (.reg 0) (.lit 1#32) (-2147483648) 1 := by decide

/-- A product that fits, the smallest square that does not, and that one under `wrap`. -/
theorem witness_MulWritesTheProduct :
    AluMeets (faulting (regs [(0, 46340)])) (.two (.reg 0) (.reg 0)) 0 0 (.reg 0) (.reg 0) 46340 46340 ∧
      Fits (46340 * 46340) ∧
      AluMeets (faulting (regs [(0, 46341)])) (.three (.reg 0) (.reg 0) (.reg 1)) 2 1 (.reg 0) (.reg 0) 46341 46341 ∧
      ¬Fits (46341 * 46341) ∧
      AluMeets (regs [(0, 46341)]) (.two (.reg 0) (.reg 0)) 0 0 (.reg 0) (.reg 0) 46341 46341 := by decide

/-- A zero divisor, a quotient that fits, and the one quotient that does not, under both modes. -/
theorem witness_DivWritesTheQuotient :
    AluMeets (regs [(0, 7)]) (.two (.reg 0) (.lit 0#32)) 0 0 (.reg 0) (.lit 0#32) 7 0 ∧
      AluMeets (faulting (regs [(0, -2147483648)])) (.two (.reg 0) (.lit 1#32)) 0 0 (.reg 0) (.lit 1#32)
        (-2147483648) 1 ∧
      Fits ((-2147483648 : Int).tdiv 1) ∧
      AluMeets (faulting (regs [(0, -2147483648), (1, -1)])) (.three (.reg 0) (.reg 1) (.reg 2)) 2 2 (.reg 0) (.reg 1)
        (-2147483648) (-1) ∧
      ¬Fits ((-2147483648 : Int).tdiv (-1)) ∧
      AluMeets (regs [(0, -2147483648), (1, -1)]) (.two (.reg 0) (.reg 1)) 0 0 (.reg 0) (.reg 1) (-2147483648) (-1) := by
  decide

theorem witness_AndWritesTheBitwiseAnd :
    AluMeets (regs [(0, -6)]) (.three (.reg 0) (.lit 3#32) (.reg 0)) 2 0 (.reg 0) (.lit 3#32) (-6) 3 := by decide

theorem witness_OrWritesTheBitwiseOr :
    AluMeets (regs [(0, -6)]) (.two (.reg 0) (.lit 1#32)) 0 0 (.reg 0) (.lit 1#32) (-6) 1 := by decide

theorem witness_XorWritesTheBitwiseXor :
    AluMeets (regs [(0, -1)]) (.two (.reg 0) (.reg 0)) 0 0 (.reg 0) (.reg 0) (-1) (-1) := by decide

/-- Each clause of `not`: a wrong count, an operand that is no register, a zero and a non-zero register. -/
theorem witness_NotNegatesLogically :
    operandCount (Operands.two (Src.reg 0) .bad) ≠ 1 ∧ (∀ d, Src.bad ≠ .reg d) ∧ (∀ d, Src.lit 1#32 ≠ .reg d) ∧
      State.reset.x[(9 : RegIndex)] = 0#32 ∧ (regs [(9, -1)]).x[(9 : RegIndex)] ≠ 0#32 := by decide

/-- The count clause of `JumpErrors` (for the six control-transfer instructions), `jmp` having no other hypothesis. -/
theorem witness_JumpErrors :
    operandCount (Operands.zero : Operands Target) ≠ 1 ∧
      operandCount (Operands.two (Target.label 0#32) .undefined) ≠ 1 := by decide

theorem witness_JeJumpsWhenZeroFlagFalse :
    (!(flagged false true).zf) = true ∧ (!(flagged true false).zf) = false := by decide

theorem witness_JlJumpsWhenSignOnly :
    ((flagged false true).sf && !(flagged false true).zf) = true ∧
      ((flagged true true).sf && !(flagged true true).zf) = false := by decide

theorem witness_JleJumpsWhenBothFlags :
    ((flagged true true).sf && (flagged true true).zf) = true ∧
      ((flagged false true).sf && (flagged false true).zf) = false := by decide

theorem witness_JgJumpsWhenNeitherFlag :
    ((flagged false false).zf = false ∧ (flagged false false).sf = false) ∧
      ¬((flagged false true).zf = false ∧ (flagged false true).sf = false) := by decide

theorem witness_JgeJumpsWhenZeroOnly :
    (!(flagged true false).sf && (flagged true false).zf) = true ∧
      (!(flagged true true).sf && (flagged true true).zf) = false := by decide

/-- A taken jump and one that is not taken, both completed. -/
theorem witness_JumpsClobberTheFlags :
    11 ≤ (Instr.jmp (.one (.label 5#32))).opc.toNat ∧
      exec (.jmp (.one (.label 5#32))) (flagged false true) = .next (jumped (flagged false true) false 5#32) ∧
      (jumped (flagged false true) false 5#32).hs = .run ∧
      exec (.je (.one (.label 5#32))) (flagged true false) = .next (notJumped (flagged true false)) ∧
      (notJumped (flagged true false)).hs = .run := ⟨by decide, rfl, rfl, rfl, rfl⟩

end Sys2Proof.Tests
end

section
/-! PROOFS. The statements of 10_state.md. Every meaning is the end of one handler (`handlerOf`); what a handler can
write, jump to, raise and read is said once for all instructions, and the statements follow from these four facts. -/

namespace Sys2Proof.Machine

open Sys2Proof.Claims

/-! ## The handler of an instruction -/

/-- The handler whose end `exec` is: what an instruction returns or raises, before it is committed (R107, R115). -/
def handlerOf (i : Instr) (s : State) : Except Raised Result :=
  match i with
  | .mov ops => handleMov ops s
  | .cmp ops => compareTwo s ops fun a b => orOverflow (aluSub s.params.ovf a b)
  | .test ops => compareTwo s ops fun a b => .ok (aluAnd a b)
  | .add ops => twoOrThree s ops fun a b => orOverflow (aluAdd s.params.ovf a b)
  | .sub ops => twoOrThree s ops fun a b => orOverflow (aluSub s.params.ovf a b)
  | .mul ops => twoOrThree s ops fun a b => orOverflow (aluMul s.params.ovf a b)
  | .div ops => twoOrThree s ops fun a b =>
      if b = 0#32 then .error divideByZero else orOverflow (aluDiv s.params.ovf a b)
  | .and ops => twoOrThree s ops fun a b => .ok (aluAnd a b)
  | .or ops => twoOrThree s ops fun a b => .ok (aluOr a b)
  | .xor ops => twoOrThree s ops fun a b => .ok (aluXor a b)
  | .not ops => handleNot ops s
  | .jmp ops => jumpWhen true 1#32 ops
  | .je ops => jumpWhen (jeTaken s) (takenResult (jeTaken s)) ops
  | .jl ops => jumpWhen (jlTaken s) (takenResult (jlTaken s)) ops
  | .jle ops => jumpWhen (jleTaken s) (takenResult (jleTaken s)) ops
  | .jg ops => jumpWhen (jgTaken s) 0#32 ops
  | .jge ops => jumpWhen (jgeTaken s) (takenResult (jgeTaken s)) ops

/-- The meaning of an instruction is the end of its handler (R115). -/
theorem exec_eq_finish_handlerOf (i : Instr) (s : State) : exec i s = finish s (handlerOf i s) := by
  cases i <;> rfl

/-- A next state of a meaning is the commit of its handler's result or the fatal error its handler raised. -/
theorem exec_next_handlerOf {i : Instr} {s t : State} (h : exec i s = .next t) :
    (∃ r, handlerOf i s = .ok r ∧ t = s.commit r) ∨ ∃ e, handlerOf i s = .error e ∧ t = s.raise e := by
  rw [exec_eq_finish_handlerOf] at h
  rcases finish_cases s (handlerOf i s) with ⟨r, hr, hf⟩ | ⟨e, he, hf⟩
  · exact .inl ⟨r, hr, by simpa using h.symm.trans hf⟩
  · exact .inr ⟨e, he, by simpa using h.symm.trans hf⟩

/-! ## Results and errors of the handler forms -/

/-- A result of `mov` writes the register of operand 0 and jumps nowhere (R130). -/
theorem handleMov_ok {s : State} {ops : Operands Src} {r : Result} (h : handleMov ops s = .ok r) :
    ∃ d b v, ops = .two (.reg d) b ∧ r = { res := 0#32, wr := some (d, v), tgt := none } := by
  cases ops with
  | zero | one | three | fourPlus => cases h
  | two a b =>
    cases ha : needReg 0 a with
    | error e => simp [handleMov, ha] at h
    | ok d =>
      cases hb : resolve s 1 b with
      | error e => simp [handleMov, ha, hb] at h
      | ok v =>
        obtain rfl := (needReg_ok_iff _ _ _).1 ha
        exact ⟨d, b, v, rfl, by simpa [handleMov, hb] using h.symm⟩

/-- `mov` fails with `ArityError` or an `OperandError` (R130). -/
theorem handleMov_error {s : State} {ops : Operands Src} {e : Raised} (h : handleMov ops s = .error e) :
    e = arityError ∨ ∃ k, e = operandError k := by
  cases ops with
  | zero | one | three | fourPlus => exact .inl (by simpa [handleMov] using h.symm)
  | two a b =>
    refine .inr ?_
    cases ha : needReg 0 a with
    | error e' =>
      obtain rfl : e' = e := by simpa [handleMov, ha] using h
      exact ⟨0, ((needReg_error_iff _ _ _).1 ha).2⟩
    | ok d =>
      cases hb : resolve s 1 b with
      | ok v => simp [handleMov, ha, hb] at h
      | error e' =>
        obtain rfl : e' = e := by simpa [handleMov, ha, hb] using h
        exact ⟨1, ((resolve_error_iff _ _ _ _).1 hb).2⟩

/-- A result of `not` writes its own operand and jumps nowhere (R157). -/
theorem handleNot_ok {s : State} {ops : Operands Src} {r : Result} (h : handleNot ops s = .ok r) :
    ∃ d, ops = .one (.reg d) ∧ r = { res := aluLnot (s.reg d), wr := some (d, aluLnot (s.reg d)), tgt := none } := by
  cases ops with
  | zero | two | three | fourPlus => cases h
  | one a =>
    cases ha : needReg 0 a with
    | error e => simp [handleNot, ha] at h
    | ok d =>
      obtain rfl := (needReg_ok_iff _ _ _).1 ha
      exact ⟨d, rfl, by simpa [handleNot] using h.symm⟩

/-- `not` fails with `ArityError` or an `OperandError` (R157). -/
theorem handleNot_error {s : State} {ops : Operands Src} {e : Raised} (h : handleNot ops s = .error e) :
    e = arityError ∨ ∃ k, e = operandError k := by
  cases ops with
  | zero | two | three | fourPlus => exact .inl (by simpa [handleNot] using h.symm)
  | one a =>
    cases ha : needReg 0 a with
    | ok d => simp [handleNot, ha] at h
    | error e' =>
      obtain rfl : e' = e := by simpa [handleNot, ha] using h
      exact .inr ⟨0, ((needReg_error_iff _ _ _).1 ha).2⟩

/-- A handler with a destination fails with an `OperandError` or an error of its ALU function (R106, R208). -/
theorem intoDest_error {s : State} {k : OperandIndex} {dest a b : Src} {f : Word → Word → Except Raised Word} {e : Raised}
    (h : intoDest s k dest a b f = .error e) : (∃ j, e = operandError j) ∨ ∃ va vb, f va vb = .error e := by
  rcases intoDest_cases s k dest a b f with ⟨_, h'⟩ | ⟨_, _, _, h'⟩ | ⟨_, _, _, _, h'⟩ |
    ⟨_, va, vb, _, _, _, ⟨e', hf, h'⟩ | ⟨_, _, h'⟩⟩
  · exact .inl ⟨k, by simpa using h.symm.trans h'⟩
  · exact .inl ⟨0, by simpa using h.symm.trans h'⟩
  · exact .inl ⟨1, by simpa using h.symm.trans h'⟩
  · obtain rfl : e = e' := by simpa using h.symm.trans h'
    exact .inr ⟨va, vb, hf⟩
  · simp [h] at h'

/-- The two- or three-operand form fails with `ArityError`, an `OperandError` or an error of its ALU function (R106). -/
theorem twoOrThree_error {s : State} {ops : Operands Src} {f : Word → Word → Except Raised Word} {e : Raised}
    (h : twoOrThree s ops f = .error e) :
    e = arityError ∨ (∃ k, e = operandError k) ∨ ∃ va vb, f va vb = .error e := by
  cases ops with
  | zero | one | fourPlus => exact .inl (by simpa [twoOrThree] using h.symm)
  | two | three => exact .inr (intoDest_error h)

/-- The comparison form fails with `ArityError`, an `OperandError` or an error of its ALU function. -/
theorem compareTwo_error {s : State} {ops : Operands Src} {f : Word → Word → Except Raised Word} {e : Raised}
    (h : compareTwo s ops f = .error e) :
    e = arityError ∨ (∃ k, e = operandError k) ∨ ∃ va vb, f va vb = .error e := by
  cases ops with
  | zero | one | three | fourPlus => exact .inl (by simpa [compareTwo] using h.symm)
  | two a b =>
    refine .inr ?_
    cases hr : resolveTwo s a b with
    | error e' =>
      obtain rfl : e' = e := by simpa [compareTwo, hr] using h
      rcases (resolveTwo_error_iff _ _ _ _).1 hr with ⟨_, he⟩ | ⟨_, _, he⟩
      · exact .inl ⟨0, he⟩
      · exact .inl ⟨1, he⟩
    | ok p =>
      obtain ⟨va, vb⟩ := p
      cases hf : f va vb with
      | ok w => simp [compareTwo, hr, hf] at h
      | error e' =>
        obtain rfl : e' = e := by simpa [compareTwo, hr, hf] using h
        exact .inr ⟨va, vb, hf⟩

/-! ## What an instruction writes and where it jumps -/

/-- The two- or three-operand form writes no register but that of its destination operand (R21, R106). -/
theorem twoOrThree_ok_parts {s : State} {ops : Operands Src} {f : Word → Word → Except Raised Word} {r : Result}
    (h : twoOrThree s ops f = .ok r) :
    ∃ k d a b, aluParts ops = some (k, .reg d, a, b) ∧ r = { res := r.res, wr := some (d, r.res), tgt := none } := by
  obtain ⟨d, va, vb, _, hr, ⟨b, rfl, _, _⟩ | ⟨a, b, rfl, _, _⟩⟩ := twoOrThree_ok s ops f r h
  · exact ⟨0, d, .reg d, b, rfl, hr⟩
  · exact ⟨2, d, a, b, rfl, hr⟩

/-- The control-transfer form jumps, if at all, to its one operand (R176). -/
theorem jumpWhen_ok_target {taken : Bool} {res v : Word} {ops : Operands Target} {r : Result}
    (h : jumpWhen taken res ops = .ok r) (hv : r.tgt = some v) : ops = .one (.label v) := by
  obtain ⟨w, rfl, rfl⟩ := jumpWhen_ok _ _ _ _ h
  cases taken with
  | true =>
    cases hv
    rfl
  | false => cases hv

/-- A handler's register write, if any, is to the destination R21 names. -/
theorem handlerOf_ok_write {i : Instr} {s : State} {r : Result} (h : handlerOf i s = .ok r) :
    r.wr = none ∨ ∃ d v, r.wr = some (d, v) ∧ destOf i = some d := by
  cases i with
  | mov ops =>
    obtain ⟨d, b, v, rfl, rfl⟩ := handleMov_ok h
    exact .inr ⟨d, v, rfl, rfl⟩
  | not ops =>
    obtain ⟨d, rfl, rfl⟩ := handleNot_ok h
    exact .inr ⟨d, _, rfl, rfl⟩
  | add ops | sub ops | mul ops | div ops | and ops | or ops | xor ops =>
    obtain ⟨k, d, a, b, hparts, hr⟩ := twoOrThree_ok_parts h
    exact .inr ⟨d, r.res, by rw [hr], by simp [destOf, hparts]⟩
  | cmp ops | test ops =>
    simp only [handlerOf] at h
    obtain ⟨_, _, _, _, _, _, _, _, hr⟩ := compareTwo_ok _ _ _ _ h
    exact .inl (by rw [hr])
  | jmp ops | je ops | jl ops | jle ops | jg ops | jge ops =>
    obtain ⟨_, _, rfl⟩ := jumpWhen_ok _ _ _ _ h
    exact .inl rfl

/-- A handler jumps, if at all, to a label value its instruction holds (R110, R176). -/
theorem handlerOf_ok_target {i : Instr} {s : State} {r : Result} {v : Word} (h : handlerOf i s = .ok r)
    (hv : r.tgt = some v) : v ∈ labelValues i := by
  cases i with
  | mov ops =>
    obtain ⟨_, _, _, _, rfl⟩ := handleMov_ok h
    cases hv
  | not ops =>
    obtain ⟨_, _, rfl⟩ := handleNot_ok h
    cases hv
  | add ops | sub ops | mul ops | div ops | and ops | or ops | xor ops =>
    obtain ⟨_, _, _, _, _, hr⟩ := twoOrThree_ok_parts h
    rw [hr] at hv
    cases hv
  | cmp ops | test ops =>
    simp only [handlerOf] at h
    obtain ⟨_, _, _, _, _, _, _, _, hr⟩ := compareTwo_ok _ _ _ _ h
    rw [hr] at hv
    cases hv
  | jmp ops | je ops | jl ops | jle ops | jg ops | jge ops =>
    obtain rfl := jumpWhen_ok_target h hv
    exact List.mem_singleton.2 rfl

/-! ## What an instruction raises -/

/-- An ALU result that is none is an overflow under `OVF = fault` (R113, R211). -/
theorem orOverflow_chk_error {ovf : OverflowMode} {n : Int} {e : Raised} (h : orOverflow (chk ovf n) = .error e) :
    e = overflowError ∧ ovf = .fault := by
  rw [chk_cases] at h
  split at h
  case isTrue hc => exact ⟨by simpa [orOverflow] using h.symm, hc.1⟩
  case isFalse => cases h

/-- `ArityError` and `OperandError` have the shape of R201. -/
theorem faultShape_of_operands {p : Params} {e : Raised} (h : e = arityError ∨ ∃ k, e = operandError k) :
    faultShape p e.kind e.opnd := by
  rcases h with rfl | ⟨k, rfl⟩
  · rfl
  · exact Option.some_ne_none k

/-- An error of a handler form has the shape of R201 if those of its ALU function do. -/
theorem faultShape_of_form {p : Params} {e : Raised} {f : Word → Word → Except Raised Word}
    (h : e = arityError ∨ (∃ k, e = operandError k) ∨ ∃ va vb, f va vb = .error e)
    (hf : ∀ va vb, f va vb = .error e → faultShape p e.kind e.opnd) : faultShape p e.kind e.opnd := by
  rcases h with h | h | ⟨va, vb, h⟩
  · exact faultShape_of_operands (.inl h)
  · exact faultShape_of_operands (.inr h)
  · exact hf va vb h

/-- The overflow of an ALU result has the shape of R201. -/
theorem faultShape_of_chk {p : Params} {n : Int} {e : Raised} (h : orOverflow (chk p.ovf n) = .error e) :
    faultShape p e.kind e.opnd := by
  obtain ⟨rfl, hovf⟩ := orOverflow_chk_error h
  exact ⟨rfl, hovf⟩

/-- Every error a handler raises records the operand index of its kind, and `Overflow` only under `OVF = fault` (R201). -/
theorem handlerOf_error_faultShape {i : Instr} {s : State} {e : Raised} (h : handlerOf i s = .error e) :
    faultShape s.params e.kind e.opnd := by
  cases i with
  | mov ops => exact faultShape_of_operands (handleMov_error h)
  | not ops => exact faultShape_of_operands (handleNot_error h)
  | cmp ops => exact faultShape_of_form (compareTwo_error h) fun _ _ => faultShape_of_chk
  | add ops | sub ops | mul ops => exact faultShape_of_form (twoOrThree_error h) fun _ _ => faultShape_of_chk
  | test ops =>
    simp only [handlerOf] at h
    exact faultShape_of_form (compareTwo_error h) fun _ _ hf => by cases hf
  | and ops | or ops | xor ops =>
    simp only [handlerOf] at h
    exact faultShape_of_form (twoOrThree_error h) fun _ _ hf => by cases hf
  | div ops =>
    refine faultShape_of_form (twoOrThree_error h) fun a b hf => ?_
    split at hf
    · cases hf
      rfl
    · exact faultShape_of_chk hf
  | jmp ops | je ops | jl ops | jle ops | jg ops | jge ops =>
    rcases jumpWhen_error _ _ _ _ h with ⟨_, rfl⟩ | ⟨_, rfl⟩ <;> rfl

/-! ## What an instruction reads -/

section Reads

variable {s t : State}

/-- Resolving a source reads the data registers only (R104). -/
theorem resolve_congr (hx : t.x = s.x) (k : OperandIndex) (o : Src) : resolve t k o = resolve s k o := by
  cases o <;> simp [State.reg, hx]

/-- The two- or three-operand form reads the data registers only (R106). -/
theorem twoOrThree_congr (hx : t.x = s.x) (ops : Operands Src) (f : Word → Word → Except Raised Word) :
    twoOrThree t ops f = twoOrThree s ops f := by
  cases ops <;> simp only [twoOrThree, intoDest, resolveTwo, resolve_congr hx]

/-- The comparison form reads the data registers only. -/
theorem compareTwo_congr (hx : t.x = s.x) (ops : Operands Src) (f : Word → Word → Except Raised Word) :
    compareTwo t ops f = compareTwo s ops f := by
  cases ops <;> simp only [compareTwo, resolveTwo, resolve_congr hx]

/-- `mov` reads the data registers only (R130). -/
theorem handleMov_congr (hx : t.x = s.x) (ops : Operands Src) : handleMov ops t = handleMov ops s := by
  cases ops <;> simp only [handleMov, resolve_congr hx]

/-- `not` reads the data registers only (R157). -/
theorem handleNot_congr (hx : t.x = s.x) (ops : Operands Src) : handleNot ops t = handleNot ops s := by
  cases ops <;> simp only [handleNot, State.reg, hx]

/-- A handler reads the data registers, the parameters and, for the five conditional jumps, the flags; nothing else of the
state (R26). -/
theorem handlerOf_congr (i : Instr) (hx : t.x = s.x) (hp : t.params = s.params)
    (hf : readsFlags i → t.zf = s.zf ∧ t.sf = s.sf) : handlerOf i t = handlerOf i s := by
  cases i with
  | mov ops => exact handleMov_congr hx ops
  | not ops => exact handleNot_congr hx ops
  | cmp ops | test ops => simp only [handlerOf, compareTwo_congr hx, hp]
  | add ops | sub ops | mul ops | div ops | and ops | or ops | xor ops => simp only [handlerOf, twoOrThree_congr hx, hp]
  | jmp ops => rfl
  | je ops | jl ops | jle ops | jg ops | jge ops =>
    obtain ⟨hz, hs⟩ := hf trivial
    simp only [handlerOf, jeTaken, jlTaken, jleTaken, jgTaken, jgeTaken, hz, hs]

end Reads

/-- A commit writes both flags, so those before it are lost (R109). -/
theorem State.commit_withFlags (s : State) (z f : Bool) (r : Result) :
    ({ s with zf := z, sf := f } : State).commit r = s.commit r := by
  obtain ⟨res, wr, tgt⟩ := r
  cases wr <;> rfl

/-! ## Label values -/

/-- A looked-up label stands in the table (R30). -/
theorem mem_of_lookupLabel {table : List (Text × Int)} {n : Text} {v : Int} (h : lookupLabel table n = some v) :
    (n, v) ∈ table := by
  induction table with
  | nil => cases h
  | cons q rest ih =>
    obtain ⟨m, w⟩ := q
    by_cases hm : m = n
    · subst hm
      obtain rfl : w = v := by simpa [lookupLabel] using h
      exact List.mem_cons_self
    · exact List.mem_cons_of_mem _ (ih (by simpa [lookupLabel, hm] using h))

/-- A label operand holds a value of the label table (R73, R79). -/
theorem mem_values_classifyLabel {labels : List (Text × Int)} {tok : Text} {v : Word}
    (h : v ∈ Target.values (classifyLabel labels tok)) : ∃ n, (tok, n) ∈ labels ∧ v = BitVec.ofInt 32 n := by
  unfold classifyLabel at h
  cases hl : lookupLabel labels tok with
  | none => simp [hl, Target.values] at h
  | some n => exact ⟨n, mem_of_lookupLabel hl, by simpa [hl, Target.values] using h⟩

/-- A label value of a token list's operands is one of some token's operand. -/
theorem mem_targetValues_operandsOf {f : Text → Target} {toks : List Text} {v : Word}
    (h : v ∈ targetValues (operandsOf f toks)) : ∃ tok, v ∈ Target.values (f tok) := by
  rcases toks with _ | ⟨a, _ | ⟨b, _ | ⟨c, _ | ⟨d, rest⟩⟩⟩⟩
  · cases h
  · exact ⟨a, h⟩
  · rcases List.mem_append.1 h with h | h
    · exact ⟨a, h⟩
    · exact ⟨b, h⟩
  all_goals
    rcases List.mem_append.1 h with h | h
    · rcases List.mem_append.1 h with h | h
      · exact ⟨a, h⟩
      · exact ⟨b, h⟩
    · exact ⟨c, h⟩

/-- The instructions of `OPC` 0 to 10 hold no label value (R79). -/
theorem labelValues_of_srcInstr {opc : Nat} {ops : Operands Src} {i : Instr} (h : srcInstr opc ops = some i) :
    labelValues i = [] := by
  unfold srcInstr at h
  split at h <;> cases h <;> rfl

/-- The label values of an instruction of `OPC` 11 to 16 are those of its operands (R79). -/
theorem labelValues_of_jumpInstr {opc : Nat} {ops : Operands Target} {i : Instr} (h : jumpInstr opc ops = some i) :
    labelValues i = targetValues ops := by
  unfold jumpInstr at h
  split at h <;> cases h <;> rfl

/-- An opcode number decodes to an instruction exactly if it has one (R82). -/
theorem decodedOf_eq_known_iff (o : Option Instr) (i : Instr) : decodedOf o = .known i ↔ o = some i := by
  cases o <;> simp [decodedOf]

/-- A label value of a text instruction comes from the label table (R73, R79). -/
theorem mem_labelValues_decodeText {form : LiteralForm} {labels : List (Text × Int)} {mn : Text} {ops : List Text}
    {i : Instr} {v : Word} (h : decodeText form labels mn ops = .known i) (hv : v ∈ labelValues i) :
    ∃ name n, (name, n) ∈ labels ∧ v = BitVec.ofInt 32 n := by
  unfold decodeText at h
  split at h
  · rw [labelValues_of_jumpInstr ((decodedOf_eq_known_iff _ _).1 h)] at hv
    obtain ⟨tok, htok⟩ := mem_targetValues_operandsOf hv
    exact ⟨tok, mem_values_classifyLabel htok⟩
  · rw [labelValues_of_srcInstr ((decodedOf_eq_known_iff _ _).1 h)] at hv
    cases hv

/-- A label value in range is the signed value of its word, the range lying within `W` bits (R9, R30, R79). -/
theorem toInt_ofInt_of_inLabelRange {n : Nat} {v : Int} (hn : n ≤ maxInstructions) (hv : inLabelRange n v) :
    (BitVec.ofInt 32 v).toInt = v := by
  obtain ⟨hlo, hhi⟩ := hv
  simp only [maxInstructions] at hn
  exact BitVec.toInt_ofInt_eq_self (by decide) (by omega) (by omega)

/-- One past a label value in range is at most `N`: a jump lands in the program or at its end (R110, R111). -/
theorem toNat_add_one_le_of_inLabelRange {n : Nat} {v : Word} (hn : n ≤ maxInstructions)
    (hv : inLabelRange n v.toInt) : (v + 1#32).toNat ≤ n := by
  obtain ⟨hlo, hhi⟩ := hv
  simp only [maxInstructions] at hn
  have hv := BitVec.toInt_eq_toNat_cond v
  rw [BitVec.toNat_add, BitVec.toNat_ofNat]
  split at hv
  · omega
  · omega

/-- Every label value of the instruction the core runs is in range, read from a text or from a word (R30, R79). -/
theorem State.Inv.labelValues_inRange {s : State} (hs : s.Inv) {e : Entry} (he : s.fetch = some e) {i : Instr}
    (hi : decodeEntry s.params.litForm s.labels e = .known i) {v : Word} (hv : v ∈ labelValues i) :
    inLabelRange s.count v.toInt := by
  obtain ⟨htable, hwords⟩ := hs.labels
  cases e with
  | word w => exact hwords w i v (List.mem_of_getElem? he) hi hv
  | text mn ops =>
    obtain ⟨name, n, hmem, rfl⟩ := mem_labelValues_decodeText hi hv
    have hn := htable name n hmem
    rwa [toInt_ofInt_of_inLabelRange hs.store hn]

/-! ## The invariant of runs -/

/-- The range of label values depends on the two stores only. -/
theorem State.labelsInRange_congr {s t : State} (hi : t.imem = s.imem) (hl : t.labels = s.labels)
    (h : s.labelsInRange) : t.labelsInRange := by
  simpa only [State.labelsInRange, State.count, hi, hl] using h

/-- A fatal error with the shape of R201 keeps the invariant (R209). -/
theorem State.Inv.raise {s : State} (hs : s.Inv) {e : Raised} (he : faultShape s.params e.kind e.opnd) :
    (s.raise e).Inv where
  flags := hs.flags
  store := (s.raise_imemWf e).2 hs.store
  names := hs.names
  labels := State.labelsInRange_congr rfl rfl hs.labels
  pc := hs.pc
  halt := ⟨rfl, he⟩

/-- A commit of a running core keeps the invariant, if it goes on at most at `N` (R28, R108, R111). -/
theorem State.Inv.commit {s : State} (hs : s.Inv) (hrun : s.hs = .run) {r : Result}
    (hpc : (nextPc s.pc r.tgt).toNat ≤ s.count) : (s.commit r).Inv where
  flags := by simpa using flags_not_both r.res
  store := (s.commit_imemWf r).2 hs.store
  names := by simpa using hs.names
  labels := State.labelsInRange_congr (s.commit_imem r) (s.commit_labels r) hs.labels
  pc := by simpa [State.count] using hpc
  halt := by simp [State.haltConsistent, hrun]

/-- From an index below `N`, with the taken label value in range, the sequencer goes on at most at `N` (R110, R111). -/
theorem nextPc_toNat_le {n : Nat} (hn : n ≤ maxInstructions) {pc : Pc} (hpc : pc.toNat < n) {tgt : Option Word}
    (htgt : ∀ v, tgt = some v → inLabelRange n v.toInt) : (nextPc pc tgt).toNat ≤ n := by
  cases tgt with
  | none =>
    rw [nextPc_none, BitVec.toNat_add]
    exact (Nat.mod_le _ _).trans hpc
  | some v => exact toNat_add_one_le_of_inLabelRange hn (htgt v rfl)

/-- A reset state meets the invariant if the stores it is given are in form and its halt state is consistent (R28, R230). -/
theorem State.resetWith_inv {p : Params} {imem : List Entry} {labels : List (Text × Int)} {hs : Halt}
    (hstore : imem.length ≤ maxInstructions) (hnames : (labels.map Prod.fst).Nodup)
    (hlabels : (State.resetWith p imem labels hs).labelsInRange)
    (hhalt : (State.resetWith p imem labels hs).haltConsistent) : (State.resetWith p imem labels hs).Inv where
  flags := by simp [State.resetWith]
  store := hstore
  names := hnames
  labels := hlabels
  pc := Nat.zero_le _
  halt := hhalt

/-- Empty stores hold no label value. -/
theorem State.labelsInRange_of_empty {s : State} (hi : s.imem = []) (hl : s.labels = []) : s.labelsInRange := by
  simp [State.labelsInRange, hi, hl]

/-! ## The loader's label table -/

/-- Each label that follows `c` instruction lines has a value from `c − 1` to one below the number of all instruction
lines (R62). -/
theorem labelsFrom_inRange {c : Nat} {lines : List Text} {name : Text} {v : Int} (h : (name, v) ∈ labelsFrom c lines) :
    (c : Int) - 1 ≤ v ∧ v ≤ (c : Int) + (instructionLines lines).length - 1 := by
  induction lines generalizing c with
  | nil => cases h
  | cons l rest ih =>
    by_cases hl : isLabelLine l = true
    · have hcount : instructionLines (l :: rest) = instructionLines rest := by simp [instructionLines, hl]
      simp only [labelsFrom, hl, if_true, List.mem_cons, Prod.mk.injEq] at h
      rw [hcount]
      rcases h with ⟨_, rfl⟩ | h
      · omega
      · exact ih h
    · have hcount : (instructionLines (l :: rest)).length = (instructionLines rest).length + 1 := by
        simp [instructionLines, hl]
      simp only [labelsFrom, hl] at h
      have := ih h
      omega

/-- A loaded program has its label values in `[−1, N − 1]`, and no word in its store (R30, R62, R64). -/
theorem labelsInRange_of_load (p : Params) (sep : Separator) (lines : List Text) (hs : Halt) :
    (State.resetWith p ((instructionLines lines).map (entryOfLine sep)) (labelsFrom 0 lines) hs).labelsInRange := by
  constructor
  · intro name v hv
    have := labelsFrom_inRange hv
    simp only [inLabelRange, State.count, State.resetWith, List.length_map]
    omega
  · intro w i v hw
    simp [State.resetWith, entryOfLine] at hw

/-! ## The run status -/

/-- The status of a running core compares `pc` with `N` (R33). -/
theorem State.status_of_run {s : State} (h : s.hs = .run) :
    s.status = if s.pc.toNat < s.count then .running else .done := by
  simp [State.status, h]

/-- The status of a faulted core is `FAULT` (R33). -/
theorem State.status_of_fault {s : State} {k : ErrorKind} {p : Pc} {o : Option OperandIndex} (h : s.hs = .fault k p o) :
    s.status = .fault := by
  simp [State.status, h]

end Sys2Proof.Machine

namespace Sys2Proof.Claims

open Sys2Proof.Machine

/-- Settles O33: a step commits or raises; a commit goes on at most at `N` because the label values of the instruction at
`pc` are in range, and an error has the shape of its kind. -/
theorem stepKeepsTheInvariant : Obligations.StepKeepsTheInvariant := by
  intro s t hs hstep
  obtain ⟨hrun, e, he, ⟨i, hi, hexec⟩ | ⟨_, rfl⟩⟩ := step_next_cases s t hstep
  · rcases exec_next_handlerOf hexec with ⟨r, hr, rfl⟩ | ⟨x, hx, rfl⟩
    · have hpc : s.pc.toNat < s.count := (List.getElem?_eq_some_iff.1 he).1
      exact hs.commit hrun <| nextPc_toNat_le hs.store hpc fun v hv =>
        hs.labelValues_inRange he hi (handlerOf_ok_target hr hv)
    · exact hs.raise (handlerOf_error_faultShape hx)
  · exact hs.raise rfl

/-- Settles O34: a load that succeeds gives label values counted by its lines, and a failed one empty stores. -/
theorem bootMeetsTheInvariant : Obligations.BootMeetsTheInvariant := by
  intro p lines s h
  unfold boot at h
  split at h
  case h_1 imem labels hload =>
    cases h
    obtain ⟨hlen, hnames, rfl, rfl⟩ := load_ok _ _ _ _ hload
    exact State.resetWith_inv (by simpa using hlen) hnames (labelsInRange_of_load p _ lines _) trivial
  case h_2 =>
    cases h
    exact State.resetWith_inv (Nat.zero_le _) List.nodup_nil (State.labelsInRange_of_empty rfl rfl) ⟨rfl, rfl⟩
  case h_3 => cases h

/-- Settles O28: a fatal error writes no register, and a commit only the one its handler names, the destination. -/
theorem onlyTheDestinationIsWritten : Obligations.OnlyTheDestinationIsWritten := by
  intro i s t d hexec hdest
  rcases exec_next_handlerOf hexec with ⟨r, hr, rfl⟩ | ⟨e, _, rfl⟩
  · rw [State.commit_x]
    rcases handlerOf_ok_write hr with hw | ⟨d', v, hw, hd'⟩
    · rw [hw, State.applyWrite_none]
    · rw [hw, State.applyWrite_some]
      have hne : d ≠ d' := by
        rintro rfl
        exact hdest hd'
      exact State.reg_setReg_other s d' d v hne
  · rfl

/-- Settles O29: the handler does not read the flags, a commit overwrites them and a fatal error leaves them alone. -/
theorem onlyConditionalJumpsReadFlags : Obligations.OnlyConditionalJumpsReadFlags := by
  intro i s t z f hi hrun hexec
  have hsame : handlerOf i { s with zf := z, sf := f } = handlerOf i s :=
    handlerOf_congr i rfl rfl fun hr => absurd hr hi
  rw [exec_eq_finish_handlerOf, hsame]
  rcases exec_next_handlerOf hexec with ⟨r, hr, rfl⟩ | ⟨e, he, rfl⟩
  · rw [hr, finish_ok, State.commit_withFlags s z f r]
    exact ⟨fun _ => rfl, fun hne => absurd ((s.commit_hs r).trans hrun) hne⟩
  · rw [he, finish_error]
    exact ⟨fun hne => (nomatch hne), fun _ => rfl⟩

/-- Settles O19: a reset writes these fields outright, and the empty program loads as two empty stores. -/
theorem resetClearsRegistersAndFlags : Obligations.ResetClearsRegistersAndFlags := by
  refine ⟨fun p imem labels hs => ⟨fun d => ?_, rfl, rfl, rfl⟩, ?_⟩
  · exact Vector.getElem_replicate d.isLt
  · have hload : load .literal [] = .ok [] [] := by simp [load, instructionLines, labelsFrom]
    simp only [boot, Params.default, hload]
    rfl

/-- Settles O32: both stores are empty at reset. -/
theorem resetMeetsTheInvariant : Obligations.ResetMeetsTheInvariant :=
  State.resetWith_inv (Nat.zero_le _) List.nodup_nil (State.labelsInRange_of_empty rfl rfl) trivial

/-- Settles O36: by the halt state, and for a running core by whether `pc` is below `N`. -/
theorem statusIsDerived : Obligations.StatusIsDerived := by
  intro s
  rcases step_cases s with ⟨k, p, o, hs, hstep⟩ | ⟨hs, hf, hstep⟩ | ⟨hs, e, he, _⟩
  · simp [State.status_of_fault hs, hs, hstep]
  · have hpc : s.count ≤ s.pc.toNat := s.fetch_eq_none_iff.1 hf
    have hstatus : s.status = .done := by rw [State.status_of_run hs, if_neg (by omega)]
    simp [hstatus, hs, hstep, hpc]
  · have hpc : s.pc.toNat < s.count := (List.getElem?_eq_some_iff.1 he).1
    have hstatus : s.status = .running := by rw [State.status_of_run hs, if_pos hpc]
    simp [hstatus, hs, hpc]

end Sys2Proof.Claims
end

section
/-! PROOFS. The statements of 20_memory.md: a step is a commit or a fatal error, and neither writes a store (R52). -/

namespace Sys2Proof.Machine

/-- A step with a next state commits a result or takes a fatal error, whatever it fetched (R100, R108, R209). -/
theorem step_next_commit_or_raise {s t : State} (h : step s = .next t) :
    (∃ r, t = s.commit r) ∨ ∃ e, t = s.raise e := by
  obtain ⟨_, _, _, ⟨i, _, hexec⟩ | ⟨_, ht⟩⟩ := step_next_cases s t h
  · rcases exec_next_cases i s t hexec with ⟨r, _, ht⟩ | ⟨e, _, ht⟩
    · exact .inl ⟨r, ht⟩
    · exact .inr ⟨e, ht⟩
  · exact .inr ⟨unknownOperation, ht⟩

end Sys2Proof.Machine

namespace Sys2Proof.Claims

open Sys2Proof.Machine

/-- Settles O31: a commit writes registers, flags and `pc` alone, a fatal error the halt state alone. -/
theorem storesAreReadOnly : Obligations.StoresAreReadOnly := by
  intro s t h
  rcases step_next_commit_or_raise h with ⟨r, rfl⟩ | ⟨e, rfl⟩
  · exact ⟨s.commit_imem r, s.commit_labels r, s.commit_params r⟩
  · exact ⟨s.raise_imem e, s.raise_labels e, s.raise_params e⟩

end Sys2Proof.Claims
end

section
/-! PROOFS. The statements of 30_encoding.md. The words: `ReadsAs` says what an operand list read from a word
means for its fields, each way of the codec is one lemma about it, and the words the decoder refuses are those of R83 and
of log entry 3, no others. -/

namespace Sys2Proof

open Sys2Proof.Claims

/-! ## One operand position -/

/-- The value bounds of R79 and R83 for the kind at an operand position. -/
def Slot.ValueFits (c : Slot) : Prop :=
  (c.kind = 0#2 → c.value.toNat ≤ 9) ∧ (c.kind = 1#2 → c.value.toNat < 2 ^ 31) ∧ (c.kind = 3#2 → c.value = 0#32)

/-- The operand kinds R83 lets an opcode number have; it restricts none for 17 to 30. -/
def KindFits (opc : Nat) (k : BitVec 2) : Prop :=
  (opc ≤ 10 ∨ opc = 31 → k ≠ 2#2) ∧ (11 ≤ opc → opc ≤ 16 → k ≠ 0#2 ∧ k ≠ 1#2)

/-- A kind is `REG`, `LIT`, `LBL` or `BAD` (R79). -/
theorem kind_cases (k : BitVec 2) : k = 0#2 ∨ k = 1#2 ∨ k = 2#2 ∨ k = 3#2 := by
  revert k
  decide

/-- An operand count of a word is one of five (R78, R83). -/
theorem count_cases {n : BitVec 3} (h : n.toNat ≤ 4) : n = 0#3 ∨ n = 1#3 ∨ n = 2#3 ∨ n = 3#3 ∨ n = 4#3 := by
  revert n
  decide

/-- A register number is read exactly from its own word (R79). -/
theorem decodeReg_ok_iff (v : Word) (d : RegIndex) : decodeReg v = .ok d ↔ BitVec.ofNat 32 d.val = v := by
  have hd : d.val < 2 ^ 32 := by omega
  rw [← BitVec.toNat_inj, BitVec.toNat_ofNat, Nat.mod_eq_of_lt hd]
  unfold decodeReg
  split
  · simp [Fin.ext_iff, eq_comm]
  · simp only [reduceCtorEq, false_iff]
    omega

/-- A register number is read exactly up to 9 (R83). -/
theorem exists_decodeReg_ok_iff (v : Word) : (∃ d, decodeReg v = .ok d) ↔ v.toNat ≤ 9 := by
  unfold decodeReg
  split
  · simp
    omega
  · simp
    omega

/-- A mapped decoder answers the map of what the decoder answers. -/
theorem except_map_ok_iff {ε α β : Type} (f : α → β) (x : Except ε α) (b : β) :
    x.map f = .ok b ↔ ∃ a, x = .ok a ∧ f a = b := by
  cases x <;> simp [Except.map]

/-! What each decoder of an operand answers, kind by kind (R79, R83). -/

@[simp] theorem decodeSrc_reg (v : Word) : decodeSrc ⟨0#2, v⟩ = (decodeReg v).map .reg := rfl

@[simp] theorem decodeSrc_lit (v : Word) :
    decodeSrc ⟨1#2, v⟩ = if v.toNat < 2 ^ 31 then .ok (.lit v) else .error .literalRange := rfl

@[simp] theorem decodeSrc_label (v : Word) : decodeSrc ⟨2#2, v⟩ = .error .operandKind := rfl

@[simp] theorem decodeSrc_bad (v : Word) : decodeSrc ⟨3#2, v⟩ = if v = 0#32 then .ok .bad else .error .badValue := rfl

@[simp] theorem decodeTarget_reg (v : Word) : decodeTarget ⟨0#2, v⟩ = .error .operandKind := rfl

@[simp] theorem decodeTarget_lit (v : Word) : decodeTarget ⟨1#2, v⟩ = .error .operandKind := rfl

@[simp] theorem decodeTarget_label (v : Word) : decodeTarget ⟨2#2, v⟩ = .ok (.label v) := rfl

@[simp] theorem decodeTarget_bad (v : Word) :
    decodeTarget ⟨3#2, v⟩ = if v = 0#32 then .ok .undefined else .error .badValue := rfl

@[simp] theorem decodeReserved_reg (v : Word) : decodeReserved ⟨0#2, v⟩ = (decodeReg v).map fun _ => () := rfl

@[simp] theorem decodeReserved_lit (v : Word) :
    decodeReserved ⟨1#2, v⟩ = if v.toNat < 2 ^ 31 then .ok () else .error .literalRange := rfl

@[simp] theorem decodeReserved_label (v : Word) : decodeReserved ⟨2#2, v⟩ = .ok () := rfl

@[simp] theorem decodeReserved_bad (v : Word) :
    decodeReserved ⟨3#2, v⟩ = if v = 0#32 then .ok () else .error .badValue := rfl

/-- A guarded answer is given exactly where the guard holds. -/
theorem ite_ok_error_iff {ε α : Type} (p : Prop) [Decidable p] (a b : α) (e : ε) :
    (if p then (.ok a : Except ε α) else .error e) = .ok b ↔ p ∧ a = b := by
  split <;> simp [*]

/-- A source operand is well formed and is read only from its own encoding (R79, R83). -/
theorem encodeSrc_of_decodeSrc {c : Slot} {o : Src} (h : decodeSrc c = .ok o) : o.wf = true ∧ encodeSrc o = c := by
  obtain ⟨k, v⟩ := c
  rcases kind_cases k with rfl | rfl | rfl | rfl
  · obtain ⟨d, hd, rfl⟩ := (except_map_ok_iff _ _ _).1 h
    exact ⟨rfl, by rw [encodeSrc, (decodeReg_ok_iff v d).1 hd]⟩
  · obtain ⟨hv, rfl⟩ := (ite_ok_error_iff _ _ _ _).1 h
    exact ⟨decide_eq_true hv, rfl⟩
  · cases h
  · obtain ⟨rfl, rfl⟩ := (ite_ok_error_iff _ _ _ _).1 h
    exact ⟨rfl, rfl⟩

/-- A label operand is read only from its own encoding (R79, R83). -/
theorem encodeTarget_of_decodeTarget {c : Slot} {t : Target} (h : decodeTarget c = .ok t) : encodeTarget t = c := by
  obtain ⟨k, v⟩ := c
  rcases kind_cases k with rfl | rfl | rfl | rfl
  · cases h
  · cases h
  · cases h
    rfl
  · obtain ⟨rfl, rfl⟩ := (ite_ok_error_iff _ _ _ _).1 h
    rfl

/-- The positions read as a source operand (R79, R83). -/
theorem exists_decodeSrc_ok_iff (c : Slot) : (∃ o, decodeSrc c = .ok o) ↔ c.kind ≠ 2#2 ∧ c.ValueFits := by
  obtain ⟨k, v⟩ := c
  rcases kind_cases k with rfl | rfl | rfl | rfl <;>
    simp [Slot.ValueFits, except_map_ok_iff, ite_ok_error_iff, ← exists_decodeReg_ok_iff, exists_comm]

/-- The positions read as a label operand (R79, R83). -/
theorem exists_decodeTarget_ok_iff (c : Slot) :
    (∃ t, decodeTarget c = .ok t) ↔ (c.kind ≠ 0#2 ∧ c.kind ≠ 1#2) ∧ c.ValueFits := by
  obtain ⟨k, v⟩ := c
  rcases kind_cases k with rfl | rfl | rfl | rfl <;> simp [Slot.ValueFits, ite_ok_error_iff]

/-- The positions a reserved opcode number may have (R83, log entry 5). -/
theorem exists_decodeReserved_ok_iff (c : Slot) : (∃ u, decodeReserved c = .ok u) ↔ c.ValueFits := by
  obtain ⟨k, v⟩ := c
  rcases kind_cases k with rfl | rfl | rfl | rfl <;>
    simp [Slot.ValueFits, except_map_ok_iff, ← exists_decodeReg_ok_iff]

/-! ## Operand lists -/

/-- `w` has the operand count of `ops`, its used positions are read by `f` as these operands, and its unused positions are
empty (R78 to R80). -/
def ReadsAs {α : Type} (f : Slot → Except BadWord α) (w : Diw) : Operands α → Prop
  | .zero => nopsField w = 0#3 ∧ slot0 w = .empty ∧ slot1 w = .empty ∧ slot2 w = .empty
  | .one a => nopsField w = 1#3 ∧ f (slot0 w) = .ok a ∧ slot1 w = .empty ∧ slot2 w = .empty
  | .two a b => nopsField w = 2#3 ∧ f (slot0 w) = .ok a ∧ f (slot1 w) = .ok b ∧ slot2 w = .empty
  | .three a b c => nopsField w = 3#3 ∧ f (slot0 w) = .ok a ∧ f (slot1 w) = .ok b ∧ f (slot2 w) = .ok c
  | .fourPlus a b c => nopsField w = 4#3 ∧ f (slot0 w) = .ok a ∧ f (slot1 w) = .ok b ∧ f (slot2 w) = .ok c

section Lists

variable {α : Type} {f : Slot → Except BadWord α} {g : α → Slot} {w : Diw} {ops : Operands α}

/-- Two positions are read exactly if each is. -/
theorem decodeTwo_ok_iff {c0 c1 : Slot} :
    decodeTwo f c0 c1 = .ok ops ↔ ∃ a b, f c0 = .ok a ∧ f c1 = .ok b ∧ ops = .two a b := by
  unfold decodeTwo
  cases f c0 <;> cases f c1 <;> simp [eq_comm]

/-- Three positions are read exactly if each is. -/
theorem decodeThree_ok_iff {mk : α → α → α → Operands α} {c0 c1 c2 : Slot} :
    decodeThree f mk c0 c1 c2 = .ok ops ↔
      ∃ a b c, f c0 = .ok a ∧ f c1 = .ok b ∧ f c2 = .ok c ∧ ops = mk a b c := by
  unfold decodeThree
  cases f c0 <;> cases f c1 <;> cases f c2 <;> simp [eq_comm]

/-- The decoder of operand lists answers exactly the list a word reads as. -/
theorem decodeOperands_ok_iff : decodeOperands f w = .ok ops ↔ ReadsAs f w ops := by
  have count {n : BitVec 3} (h : (nopsField w).toNat = n.toNat) : nopsField w = n := BitVec.eq_of_toNat_eq h
  constructor
  · intro h
    unfold decodeOperands at h
    split at h
    case h_1 hc =>
      simp only [ite_ok_error_iff, Bool.and_eq_true, Slot.unused_iff] at h
      obtain ⟨⟨⟨hs0, hs1⟩, hs2⟩, rfl⟩ := h
      exact ⟨count hc, hs0, hs1, hs2⟩
    case h_2 hc =>
      split at h
      case isTrue hu =>
        simp only [Bool.and_eq_true, Slot.unused_iff] at hu
        obtain ⟨a, ha, rfl⟩ := (except_map_ok_iff _ _ _).1 h
        exact ⟨count hc, ha, hu⟩
      case isFalse => cases h
    case h_3 hc =>
      split at h
      case isTrue hu =>
        obtain ⟨a, b, ha, hb, rfl⟩ := decodeTwo_ok_iff.1 h
        exact ⟨count hc, ha, hb, (Slot.unused_iff _).1 hu⟩
      case isFalse => cases h
    case h_4 hn | h_5 hn =>
      obtain ⟨a, b, c, ha, hb, hc, rfl⟩ := decodeThree_ok_iff.1 h
      exact ⟨count hn, ha, hb, hc⟩
    case h_6 => cases h
  · intro h
    unfold decodeOperands
    cases ops with
    | zero =>
      obtain ⟨hc, hs0, hs1, hs2⟩ := h
      simp [hc, hs0, hs1, hs2]
    | one a =>
      obtain ⟨hc, hs0, hs1, hs2⟩ := h
      simp [hc, hs0, hs1, hs2, Except.map]
    | two a b =>
      obtain ⟨hc, hs0, hs1, hs2⟩ := h
      simp [hc, hs0, hs1, hs2, decodeTwo_ok_iff]
    | three a b c | fourPlus a b c =>
      obtain ⟨hc, hs0, hs1, hs2⟩ := h
      simp [hc, hs0, hs1, hs2, decodeThree_ok_iff]

/-- The word of well-formed operands reads as these operands, if each is read back from its encoding. -/
theorem readsAs_encodeOperands {p : α → Bool} (hf : ∀ a, p a = true → f (g a) = .ok a) (opc : BitVec 5)
    (h : ops.all p = true) : ReadsAs f (encodeOperands g opc ops) ops := by
  cases ops with
  | zero => simp [ReadsAs, encodeOperands]
  | one a => simpa [ReadsAs, encodeOperands] using hf a h
  | two a b =>
    obtain ⟨ha, hb⟩ := Bool.and_eq_true_iff.1 h
    simp [ReadsAs, encodeOperands, hf a ha, hf b hb]
  | three a b c | fourPlus a b c =>
    simp only [Operands.all, Bool.and_eq_true, and_assoc] at h
    obtain ⟨ha, hb, hc⟩ := h
    simp [ReadsAs, encodeOperands, hf a ha, hf b hb, hf c hc]

/-- A word with a zero reserved field is the word of the operands it reads as, if each is read only from its encoding. -/
theorem ReadsAs.encodeOperands_eq (hg : ∀ c a, f c = .ok a → g a = c) (hrsv : rsvField w = 0#18)
    (h : ReadsAs f w ops) : encodeOperands g (opcField w) ops = w := by
  rw [← packWord_fields w hrsv, opcField_packWord]
  cases ops with
  | zero =>
    obtain ⟨hc, h0, h1, h2⟩ := h
    rw [hc, h0, h1, h2, encodeOperands]
  | one a =>
    obtain ⟨hc, h0, h1, h2⟩ := h
    rw [hc, h1, h2, encodeOperands, hg _ _ h0]
  | two a b =>
    obtain ⟨hc, h0, h1, h2⟩ := h
    rw [hc, h2, encodeOperands, hg _ _ h0, hg _ _ h1]
  | three a b c | fourPlus a b c =>
    obtain ⟨hc, h0, h1, h2⟩ := h
    rw [hc, encodeOperands, hg _ _ h0, hg _ _ h1, hg _ _ h2]

/-- What holds of every operand `f` reads holds of the operands a word reads as. -/
theorem ReadsAs.all {p : α → Bool} (hp : ∀ c a, f c = .ok a → p a = true) (h : ReadsAs f w ops) :
    ops.all p = true := by
  cases ops with
  | zero => rfl
  | one a =>
    obtain ⟨_, h0, _⟩ := h
    exact hp _ _ h0
  | two a b =>
    obtain ⟨_, h0, h1, _⟩ := h
    simp [Operands.all, hp _ _ h0, hp _ _ h1]
  | three a b c | fourPlus a b c =>
    obtain ⟨_, h0, h1, h2⟩ := h
    simp [Operands.all, hp _ _ h0, hp _ _ h1, hp _ _ h2]

/-- The positions of a word are these three (R78). -/
theorem forall_isPosition_iff {P : Nat → Slot → Prop} :
    (∀ k c, IsPosition w k c → P k c) ↔ P 0 (slot0 w) ∧ P 1 (slot1 w) ∧ P 2 (slot2 w) := by
  constructor
  · intro h
    exact ⟨h _ _ (.inl ⟨rfl, rfl⟩), h _ _ (.inr (.inl ⟨rfl, rfl⟩)), h _ _ (.inr (.inr ⟨rfl, rfl⟩))⟩
  · rintro ⟨h0, h1, h2⟩ k c (⟨rfl, rfl⟩ | ⟨rfl, rfl⟩ | ⟨rfl, rfl⟩)
    · exact h0
    · exact h1
    · exact h2

/-- A word reads as some operand list exactly if it counts at most four operands, its unused positions are empty and each
used one is read (R80, R83). -/
theorem exists_readsAs_iff :
    (∃ ops, ReadsAs f w ops) ↔ (nopsField w).toNat ≤ 4 ∧ ∀ k c, IsPosition w k c →
      ((nopsField w).toNat ≤ k → c = .empty) ∧ (k < (nopsField w).toNat → ∃ a, f c = .ok a) := by
  rw [forall_isPosition_iff]
  constructor
  · rintro ⟨ops, h⟩
    cases ops with
    | zero | one a | two a b | three a b c | fourPlus a b c =>
      obtain ⟨hc, h0, h1, h2⟩ := h
      simp [hc, h0, h1, h2]
  · rintro ⟨hc, ⟨he0, hr0⟩, ⟨he1, hr1⟩, he2, hr2⟩
    rcases count_cases hc with h | h | h | h | h <;> rw [h] at he0 he1 he2 hr0 hr1 hr2
    · exact ⟨.zero, h, he0 (by decide), he1 (by decide), he2 (by decide)⟩
    · obtain ⟨a, ha⟩ := hr0 (by decide)
      exact ⟨.one a, h, ha, he1 (by decide), he2 (by decide)⟩
    · obtain ⟨a, ha⟩ := hr0 (by decide)
      obtain ⟨b, hb⟩ := hr1 (by decide)
      exact ⟨.two a b, h, ha, hb, he2 (by decide)⟩
    · obtain ⟨a, ha⟩ := hr0 (by decide)
      obtain ⟨b, hb⟩ := hr1 (by decide)
      obtain ⟨c, hc⟩ := hr2 (by decide)
      exact ⟨.three a b c, h, ha, hb, hc⟩
    · obtain ⟨a, ha⟩ := hr0 (by decide)
      obtain ⟨b, hb⟩ := hr1 (by decide)
      obtain ⟨c, hc⟩ := hr2 (by decide)
      exact ⟨.fourPlus a b c, h, ha, hb, hc⟩

end Lists

/-! ## Opcode numbers -/

/-- What an instruction of `OPC` 0 to 10 is to the encoder (R76, R79). -/
theorem srcInstr_some {n : Nat} {ops : Operands Src} {i : Instr} (h : srcInstr n ops = some i) :
    i.opc.toNat = n ∧ n ≤ 10 ∧ encode i = encodeOperands encodeSrc i.opc ops ∧ i.wf = ops.all Src.wf := by
  unfold srcInstr at h
  split at h <;> cases h <;> exact ⟨rfl, by decide, rfl, rfl⟩

/-- What an instruction of `OPC` 11 to 16 is to the encoder (R76, R79). -/
theorem jumpInstr_some {n : Nat} {ops : Operands Target} {i : Instr} (h : jumpInstr n ops = some i) :
    i.opc.toNat = n ∧ (11 ≤ n ∧ n ≤ 16) ∧ encode i = encodeOperands encodeTarget i.opc ops ∧
      i.wf = ops.all Target.wf := by
  unfold jumpInstr at h
  split at h <;> cases h <;> exact ⟨rfl, by decide, rfl, rfl⟩

/-- Each of the numbers 0 to 10 has its instruction (R76). -/
theorem exists_srcInstr {n : Nat} (h : n ≤ 10) (ops : Operands Src) : ∃ i, srcInstr n ops = some i := by
  interval_cases n <;> exact ⟨_, rfl⟩

/-- Each of the numbers 11 to 16 has its instruction (R76). -/
theorem exists_jumpInstr {n : Nat} (h : 11 ≤ n ∧ n ≤ 16) (ops : Operands Target) : ∃ i, jumpInstr n ops = some i := by
  obtain ⟨hlo, hhi⟩ := h
  interval_cases n <;> exact ⟨_, rfl⟩

/-- An instruction is the one of its opcode number, with its operands (R76). -/
theorem Instr.eq_srcInstr_or_jumpInstr (i : Instr) :
    (∃ ops, srcInstr i.opc.toNat ops = some i) ∨ ∃ ops, jumpInstr i.opc.toNat ops = some i := by
  cases i with
  | mov ops | cmp ops | test ops | add ops | sub ops | mul ops | div ops | and ops | or ops | xor ops | not ops =>
    exact .inl ⟨ops, rfl⟩
  | jmp ops | je ops | jl ops | jle ops | jg ops | jge ops => exact .inr ⟨ops, rfl⟩

/-- The opcode numbers of the 17 instructions (R76). -/
theorem Instr.opc_toNat_le (i : Instr) : i.opc.toNat ≤ 16 := by
  rcases i.eq_srcInstr_or_jumpInstr with ⟨ops, h⟩ | ⟨ops, h⟩
  · obtain ⟨-, hle, -⟩ := srcInstr_some h
    omega
  · obtain ⟨-, hle, -⟩ := jumpInstr_some h
    omega

/-- The numbers whose operands are label names (R73, R76). -/
theorem isJumpOpc_iff (n : Nat) : isJumpOpc n = true ↔ 11 ≤ n ∧ n ≤ 16 := by simp [isJumpOpc]

/-- The numbers no loader writes (R82). -/
theorem isReservedOpc_iff (n : Nat) : isReservedOpc n = true ↔ 17 ≤ n ∧ n ≤ 30 := by simp [isReservedOpc]

/-- What an opcode number stands for is never ill-formed (R82). -/
theorem decodedOf_ne_illFormed (o : Option Instr) (r : BadWord) : decodedOf o ≠ .illFormed r := by
  cases o <;> simp [decodedOf]

/-! ## The decoder -/

/-- A word of `OPC` 11 to 16 is the jump of its label operands (R81, R83). -/
theorem decode_of_jumpOpc {w : Diw} {ops : Operands Target} (hrsv : rsvField w = 0#18)
    (hopc : 11 ≤ (opcField w).toNat ∧ (opcField w).toNat ≤ 16) (h : ReadsAs decodeTarget w ops) :
    decode w = decodedOf (jumpInstr (opcField w).toNat ops) := by
  simp [decode, hrsv, (isJumpOpc_iff _).2 hopc, decodeOperands_ok_iff.2 h]

/-- A word of `OPC` 17 to 30 is unknown if its operands are in form (R82, R83). -/
theorem decode_of_reservedOpc {w : Diw} {ops : Operands Unit} (hrsv : rsvField w = 0#18)
    (hopc : 17 ≤ (opcField w).toNat ∧ (opcField w).toNat ≤ 30) (h : ReadsAs decodeReserved w ops) :
    decode w = .unknown := by
  have hj : ¬isJumpOpc (opcField w).toNat = true := by
    rw [isJumpOpc_iff]
    omega
  simp [decode, hrsv, hj, (isReservedOpc_iff _).2 hopc, decodeOperands_ok_iff.2 h]

/-- A word of `OPC` 0 to 10 or 31 is the instruction of its source operands, or unknown (R81 to R83). -/
theorem decode_of_srcOpc {w : Diw} {ops : Operands Src} (hrsv : rsvField w = 0#18)
    (hopc : (opcField w).toNat ≤ 10 ∨ (opcField w).toNat = 31) (h : ReadsAs decodeSrc w ops) :
    decode w = decodedOf (srcInstr (opcField w).toNat ops) := by
  have hj : ¬isJumpOpc (opcField w).toNat = true := by
    rw [isJumpOpc_iff]
    omega
  have hr : ¬isReservedOpc (opcField w).toNat = true := by
    rw [isReservedOpc_iff]
    omega
  simp [decode, hrsv, hj, hr, decodeOperands_ok_iff.2 h]

/-- All the decoder can answer: a refusal, or what the opcode number makes of the operands the word reads as (R81 to R83). -/
theorem decode_cases (w : Diw) :
    (∃ r, decode w = .illFormed r) ∨ rsvField w = 0#18 ∧
      (((11 ≤ (opcField w).toNat ∧ (opcField w).toNat ≤ 16) ∧ ∃ ops, ReadsAs decodeTarget w ops) ∨
        ((17 ≤ (opcField w).toNat ∧ (opcField w).toNat ≤ 30) ∧ ∃ ops, ReadsAs decodeReserved w ops) ∨
          ((opcField w).toNat ≤ 10 ∨ (opcField w).toNat = 31) ∧ ∃ ops, ReadsAs decodeSrc w ops) := by
  have hlt := (opcField w).isLt
  by_cases hrsv : rsvField w = 0#18
  case neg => exact .inl ⟨.reservedBits, by simp [decode, hrsv]⟩
  by_cases hj : isJumpOpc (opcField w).toNat = true
  · cases h : decodeOperands decodeTarget w with
    | ok ops => exact .inr ⟨hrsv, .inl ⟨(isJumpOpc_iff _).1 hj, ops, decodeOperands_ok_iff.1 h⟩⟩
    | error r => exact .inl ⟨r, by simp [decode, hrsv, hj, h]⟩
  by_cases hr : isReservedOpc (opcField w).toNat = true
  · cases h : decodeOperands decodeReserved w with
    | ok ops => exact .inr ⟨hrsv, .inr (.inl ⟨(isReservedOpc_iff _).1 hr, ops, decodeOperands_ok_iff.1 h⟩)⟩
    | error r => exact .inl ⟨r, by simp [decode, hrsv, hj, hr, h]⟩
  · cases h : decodeOperands decodeSrc w with
    | ok ops =>
      rw [isJumpOpc_iff] at hj
      rw [isReservedOpc_iff] at hr
      exact .inr ⟨hrsv, .inr (.inr ⟨by omega, ops, decodeOperands_ok_iff.1 h⟩)⟩
    | error r => exact .inl ⟨r, by simp [decode, hrsv, hj, hr, h]⟩

/-- A word read as an instruction has its opcode number, reads as its operands, and is its word (R78 to R81). -/
theorem eq_encode_of_decode {w : Diw} {i : Instr} (h : decode w = .known i) :
    i.wf = true ∧ opcField w = i.opc ∧ encode i = w := by
  rcases decode_cases w with ⟨r, hw⟩ | ⟨hrsv, ⟨hopc, ops, hops⟩ | ⟨hopc, ops, hops⟩ | ⟨hopc, ops, hops⟩⟩
  · simp [hw] at h
  · rw [decode_of_jumpOpc hrsv hopc hops, Machine.decodedOf_eq_known_iff] at h
    obtain ⟨hi, -, hw, hwf⟩ := jumpInstr_some h
    have hi := BitVec.eq_of_toNat_eq hi
    refine ⟨?_, hi.symm, ?_⟩
    · rw [hwf]
      exact hops.all fun _ t _ => by cases t <;> rfl
    · rw [hw, hi]
      exact hops.encodeOperands_eq (fun _ _ => encodeTarget_of_decodeTarget) hrsv
  · simp [decode_of_reservedOpc hrsv hopc hops] at h
  · rw [decode_of_srcOpc hrsv hopc hops, Machine.decodedOf_eq_known_iff] at h
    obtain ⟨hi, -, hw, hwf⟩ := srcInstr_some h
    have hi := BitVec.eq_of_toNat_eq hi
    refine ⟨?_, hi.symm, ?_⟩
    · rw [hwf]
      exact hops.all fun _ _ ho => (encodeSrc_of_decodeSrc ho).1
    · rw [hw, hi]
      exact hops.encodeOperands_eq (fun _ _ ho => (encodeSrc_of_decodeSrc ho).2) hrsv

/-- An unknown word has an opcode number of 17 or more (R82). -/
theorem opcField_of_decode_unknown {w : Diw} (h : decode w = .unknown) : 17 ≤ (opcField w).toNat := by
  rcases decode_cases w with ⟨r, hw⟩ | ⟨hrsv, ⟨hopc, ops, hops⟩ | ⟨hopc, -⟩ | ⟨hopc, ops, hops⟩⟩
  · simp [hw] at h
  · obtain ⟨i, hi⟩ := exists_jumpInstr hopc ops
    simp [decode_of_jumpOpc hrsv hopc hops, hi, decodedOf] at h
  · exact hopc.1
  · rcases hopc with hlo | h31
    · obtain ⟨i, hi⟩ := exists_srcInstr hlo ops
      simp [decode_of_srcOpc hrsv (.inl hlo) hops, hi, decodedOf] at h
    · omega

/-- The word of source operands under `OPC` 0 to 10 or 31 (R78 to R82). -/
theorem decode_encodeOperands_src {opc : BitVec 5} (hopc : opc.toNat ≤ 10 ∨ opc.toNat = 31) {ops : Operands Src}
    (h : ops.all Src.wf = true) :
    decode (encodeOperands encodeSrc opc ops) = decodedOf (srcInstr opc.toNat ops) := by
  have := decode_of_srcOpc (rsvField_encodeOperands _ opc _) (by simpa using hopc)
    (readsAs_encodeOperands decodeSrc_encodeSrc opc h)
  simpa using this

/-- The word of label operands under `OPC` 11 to 16 (R78 to R81). -/
theorem decode_encodeOperands_target {opc : BitVec 5} (hopc : 11 ≤ opc.toNat ∧ opc.toNat ≤ 16) (ops : Operands Target) :
    decode (encodeOperands encodeTarget opc ops) = decodedOf (jumpInstr opc.toNat ops) := by
  have hall : ops.all (fun _ => true) = true := by cases ops <;> rfl
  have := decode_of_jumpOpc (rsvField_encodeOperands _ opc _) (by simpa using hopc)
    (readsAs_encodeOperands (fun t _ => decodeTarget_encodeTarget t) opc hall)
  simpa using this

/-- The word under the mask 0x1F is its opcode field (R78, R81). -/
theorem toNat_and_opcodeMask (w : Diw) : (w &&& 0x1F#128).toNat = (opcField w).toNat := by
  have hmask : w.toNat &&& 31 = w.toNat % 2 ^ 5 := Nat.and_two_pow_sub_one_eq_mod w.toNat 5
  simpa [opcField] using hmask

/-! ## The refused words -/

/-- The fields of a word lie in the bounds of R79, R80 and R83. -/
def FieldsFit (w : Diw) : Prop :=
  rsvField w = 0#18 ∧ (nopsField w).toNat ≤ 4 ∧ ∀ k c, IsPosition w k c →
    ((nopsField w).toNat ≤ k → c = .empty) ∧
      (k < (nopsField w).toNat → KindFits (opcField w).toNat c.kind ∧ c.ValueFits)

/-- The words whose fields fit are those R83 does not name, less those with a bad operand of non-zero value (log entry 3). -/
theorem fieldsFit_iff (w : Diw) : FieldsFit w ↔ ¬NamedIllFormed w ∧ BadValuesAreZero w := by
  constructor
  · rintro ⟨hrsv, hn, hpos⟩
    constructor
    case right =>
      intro k c hk hlt
      obtain ⟨-, -, -, hbad⟩ := (hpos k c hk).2 hlt
      exact hbad
    rintro (h | h | ⟨k, c, hk, ⟨hle, hne⟩ | ⟨hlt, hbad⟩⟩)
    · omega
    · exact h hrsv
    · obtain rfl := (hpos k c hk).1 hle
      simp [Slot.empty] at hne
    · obtain ⟨⟨hsrc, hjump⟩, hreg, hlit, -⟩ := (hpos k c hk).2 hlt
      rcases hbad with ⟨hkind, hlo | h31⟩ | ⟨hkind, hlo, hhi⟩ | ⟨hkind, hv⟩ | ⟨hkind, hv⟩
      · exact hsrc (.inl hlo) hkind
      · exact hsrc (.inr (by rw [h31]; rfl)) hkind
      · exact hkind.elim (hjump hlo hhi).1 (hjump hlo hhi).2
      · have := hreg hkind
        omega
      · have := hlit hkind
        omega
  · rintro ⟨hnamed, hzero⟩
    simp only [NamedIllFormed, not_or, not_exists, not_and, not_le, not_lt, not_not] at hnamed
    obtain ⟨hn, hrsv, hpos⟩ := hnamed
    refine ⟨hrsv, by omega, fun k c hk => ?_⟩
    obtain ⟨hunused, hused⟩ := hpos k c hk
    refine ⟨fun hle => ?_, fun hlt => ?_⟩
    · obtain ⟨hkind, hvalue⟩ := hunused hle
      rw [← Slot.unused_iff]
      simp [Slot.unused, hkind, hvalue]
    · obtain ⟨hsrc, hjump, hreg, hlit⟩ := hused hlt
      refine ⟨⟨?_, ?_⟩, hreg, hlit, hzero k c hk hlt⟩
      · rintro hopc hkind
        obtain ⟨hlo, h31⟩ := hsrc hkind
        exact hopc.elim (by omega) fun h => h31 (BitVec.eq_of_toNat_eq h)
      · intro hlo hhi
        refine ⟨fun hkind => ?_, fun hkind => ?_⟩
        · have := hjump (.inl hkind) hlo
          omega
        · have := hjump (.inr hkind) hlo
          omega

/-- Where the decoder of an operand reads exactly the kinds of an opcode number, a word reads as some list exactly if its
fields fit. -/
theorem exists_readsAs_iff_fieldsFit {α : Type} {f : Slot → Except BadWord α} {w : Diw} (hrsv : rsvField w = 0#18)
    (hf : ∀ c, (∃ a, f c = .ok a) ↔ KindFits (opcField w).toNat c.kind ∧ c.ValueFits) :
    (∃ ops, ReadsAs f w ops) ↔ FieldsFit w := by
  simp only [exists_readsAs_iff, hf, FieldsFit, hrsv, true_and]

section Classes

variable {w : Diw} (hrsv : rsvField w = 0#18)
include hrsv

/-- Under `OPC` 11 to 16 label operands are read exactly where the fields fit. -/
theorem exists_readsAs_target_iff (hopc : 11 ≤ (opcField w).toNat ∧ (opcField w).toNat ≤ 16) :
    (∃ ops, ReadsAs decodeTarget w ops) ↔ FieldsFit w := by
  refine exists_readsAs_iff_fieldsFit hrsv fun c => ?_
  have hsrc : ¬((opcField w).toNat ≤ 10 ∨ (opcField w).toNat = 31) := by omega
  simp [exists_decodeTarget_ok_iff, KindFits, hopc, hsrc]

/-- Under `OPC` 17 to 30 operands are read exactly where the fields fit. -/
theorem exists_readsAs_reserved_iff (hopc : 17 ≤ (opcField w).toNat ∧ (opcField w).toNat ≤ 30) :
    (∃ ops, ReadsAs decodeReserved w ops) ↔ FieldsFit w := by
  refine exists_readsAs_iff_fieldsFit hrsv fun c => ?_
  have hsrc : ¬((opcField w).toNat ≤ 10 ∨ (opcField w).toNat = 31) := by omega
  have hjump : ¬(opcField w).toNat ≤ 16 := by omega
  simp [exists_decodeReserved_ok_iff, KindFits, hjump, hsrc]

/-- Under `OPC` 0 to 10 and 31 source operands are read exactly where the fields fit. -/
theorem exists_readsAs_src_iff (hopc : (opcField w).toNat ≤ 10 ∨ (opcField w).toNat = 31) :
    (∃ ops, ReadsAs decodeSrc w ops) ↔ FieldsFit w := by
  refine exists_readsAs_iff_fieldsFit hrsv fun c => ?_
  have hjump : ¬(11 ≤ (opcField w).toNat ∧ (opcField w).toNat ≤ 16) := by omega
  simp [exists_decodeSrc_ok_iff, KindFits, hopc, ← and_imp, hjump]

end Classes

/-- The decoder refuses exactly the words R83 names and those with a bad operand of non-zero value (R83, log entry 3). -/
theorem decode_ne_illFormed_iff (w : Diw) :
    (∀ r, decode w ≠ .illFormed r) ↔ ¬NamedIllFormed w ∧ BadValuesAreZero w := by
  rw [← fieldsFit_iff]
  constructor
  · intro hne
    rcases decode_cases w with ⟨r, hw⟩ | ⟨hrsv, ⟨hopc, hops⟩ | ⟨hopc, hops⟩ | ⟨hopc, hops⟩⟩
    · exact absurd hw (hne r)
    · exact (exists_readsAs_target_iff hrsv hopc).1 hops
    · exact (exists_readsAs_reserved_iff hrsv hopc).1 hops
    · exact (exists_readsAs_src_iff hrsv hopc).1 hops
  · intro hfit r
    have hrsv := hfit.1
    have hlt := (opcField w).isLt
    by_cases hjump : 11 ≤ (opcField w).toNat ∧ (opcField w).toNat ≤ 16
    · obtain ⟨ops, hops⟩ := (exists_readsAs_target_iff hrsv hjump).2 hfit
      rw [decode_of_jumpOpc hrsv hjump hops]
      exact decodedOf_ne_illFormed _ r
    by_cases hres : 17 ≤ (opcField w).toNat ∧ (opcField w).toNat ≤ 30
    · obtain ⟨ops, hops⟩ := (exists_readsAs_reserved_iff hrsv hres).2 hfit
      simp [decode_of_reservedOpc hrsv hres hops]
    · have hsrc : (opcField w).toNat ≤ 10 ∨ (opcField w).toNat = 31 := by omega
      obtain ⟨ops, hops⟩ := (exists_readsAs_src_iff hrsv hsrc).2 hfit
      rw [decode_of_srcOpc hrsv hsrc hops]
      exact decodedOf_ne_illFormed _ r

end Sys2Proof

namespace Sys2Proof.Claims

open Sys2Proof.Machine

/-- Settles O2: an instruction is the one of its opcode number, and its operands are read back from their encodings. -/
theorem decodeInvertsEncode : Obligations.DecodeInvertsEncode := by
  intro i hi
  rcases i.eq_srcInstr_or_jumpInstr with ⟨ops, h⟩ | ⟨ops, h⟩
  · obtain ⟨-, hopc, henc, hwf⟩ := srcInstr_some h
    rw [henc, decode_encodeOperands_src (.inl hopc) (hwf ▸ hi), h, decodedOf]
  · obtain ⟨-, hopc, henc, -⟩ := jumpInstr_some h
    rw [henc, decode_encodeOperands_target hopc, h, decodedOf]

/-- Settles O3: every used field is read only from its encoding, and every other field must be zero. -/
theorem encodeInvertsDecode : Obligations.EncodeInvertsDecode := by
  intro w i h
  obtain ⟨hwf, -, henc⟩ := eq_encode_of_decode h
  exact ⟨hwf, henc⟩

/-- Settles O4: bits 4:0 are the opcode field, which is the number of the instruction read. -/
theorem opcodeFieldSelectsOperation : Obligations.OpcodeFieldSelectsOperation := by
  intro w
  refine ⟨fun i h => ?_, fun h => ?_⟩
  · obtain ⟨-, hopc, -⟩ := eq_encode_of_decode h
    apply BitVec.eq_of_toNat_eq
    have hlt := i.opc.isLt
    rw [toNat_and_opcodeMask, hopc, BitVec.toNat_ofNat, Nat.mod_eq_of_lt (by omega)]
  · rw [toNat_and_opcodeMask]
    exact opcField_of_decode_unknown h

end Sys2Proof.Claims
end

section
/-! PROOFS. Tokens (R69, R70): the model reads them character by character, the statements say what they are. -/

namespace Sys2Proof.Machine

open Sys2Proof.Claims

/-- The character of a digit is exactly the one of its value (R69). -/
theorem digitValue_eq_some_iff (c : Char) (d : RegIndex) : digitValue c = some d ↔ c = Char.ofNat (48 + d.val) := by
  constructor
  · intro h
    unfold digitValue at h
    split at h
    case isTrue hc =>
      cases h
      rw [Nat.add_sub_cancel' hc.1, Char.ofNat_toNat]
    case isFalse => cases h
  · rintro rfl
    revert d
    decide

/-- The digits are the ASCII digits (R69, D6). -/
theorem isDigit_iff (c : Char) : isDigit c = true ↔ 48 ≤ c.toNat ∧ c.toNat ≤ 57 := by
  unfold isDigit digitValue
  split <;> simp [*]

/-- The value of an ASCII digit (R70). -/
theorem digitValue_of_isDigit {c : Char} (h : 48 ≤ c.toNat ∧ c.toNat ≤ 57) :
    ((digitValue c).map Fin.val).getD 0 = c.toNat - 48 := by
  simp [digitValue, h]

/-- A register token is exactly `r` and one digit (R69). -/
theorem regIdx_eq_some_iff (tok : Text) (d : RegIndex) : regIdx tok = some d ↔ tok = ['r', Char.ofNat (48 + d.val)] := by
  unfold regIdx
  split
  case h_1 r c =>
    by_cases hr : r = 'r'
    · simp [hr, digitValue_eq_some_iff]
    · simp [hr]
  case h_2 hne =>
    constructor
    · intro h
      cases h
    · intro h
      exact absurd h (hne _ _)

/-- The value of a run of digits after others of value `acc` (R70). -/
theorem decimalFrom_eq {t : Text} (h : ∀ c ∈ t, 48 ≤ c.toNat ∧ c.toNat ≤ 57) (acc : Nat) :
    decimalFrom acc t = 10 ^ t.length * acc + decimalValue t := by
  induction t generalizing acc with
  | nil => simp [decimalFrom, decimalValue]
  | cons c rest ih =>
    have hhead : decimalValue (c :: rest) = decimalValue rest + 10 ^ rest.length * (c.toNat - 48) := by
      simp [decimalValue, Nat.ofDigits_append]
    rw [decimalFrom, digitValue_of_isDigit (h c List.mem_cons_self), ih fun d hd => h d (List.mem_cons_of_mem c hd),
      hhead, List.length_cons]
    ring

/-- A token is a literal of value `n` exactly under the conditions of R70. -/
theorem literalValue_eq_some_iff (form : LiteralForm) (tok : Text) (n : Nat) :
    literalValue form tok = some n ↔
      AllDigits tok ∧ decimalValue tok ≤ 2147483647 ∧ (form = .single → tok.length = 1) ∧ n = decimalValue tok := by
  have hdigits : tok.all isDigit = true ↔ ∀ c ∈ tok, 48 ≤ c.toNat ∧ c.toNat ≤ 57 := by
    simp only [List.all_eq_true, isDigit_iff]
  unfold literalValue
  by_cases hd : ∀ c ∈ tok, 48 ≤ c.toNat ∧ c.toNat ≤ 57
  · simp [hdigits, decimalFrom_eq hd, AllDigits, and_assoc, eq_comm]
  · simp [hdigits, hd, AllDigits]

/-- A run of digits is no register token (R69). -/
theorem regIdx_of_allDigits {tok : Text} (h : AllDigits tok) : regIdx tok = none := by
  cases hr : regIdx tok with
  | none => rfl
  | some d =>
    obtain rfl := (regIdx_eq_some_iff _ _).1 hr
    exact absurd (h.2 'r' List.mem_cons_self) (by decide)

/-- A token is a register exactly if it names one (R69). -/
theorem classify_eq_reg_iff (form : LiteralForm) (tok : Text) (d : RegIndex) :
    classify form tok = .reg d ↔ regIdx tok = some d := by
  unfold classify
  cases regIdx tok with
  | some e => simp
  | none => cases literalValue form tok <;> simp

/-- A token is a literal exactly if it has a literal value; it then is no register (R69, R70). -/
theorem classify_eq_lit_iff (form : LiteralForm) (tok : Text) (v : Word) :
    classify form tok = .lit v ↔ ∃ n, literalValue form tok = some n ∧ BitVec.ofNat 32 n = v := by
  unfold classify
  cases hl : literalValue form tok with
  | none => cases regIdx tok <;> simp
  | some n => simp [regIdx_of_allDigits ((literalValue_eq_some_iff _ _ _).1 hl).1]

/-- A literal token is in the range of R70, so every token is well formed. -/
theorem classify_wf (form : LiteralForm) (tok : Text) : (classify form tok).wf = true := by
  cases h : classify form tok with
  | reg d => rfl
  | bad => rfl
  | lit v =>
    obtain ⟨n, hn, rfl⟩ := (classify_eq_lit_iff _ _ _).1 h
    obtain ⟨-, hle, -, rfl⟩ := (literalValue_eq_some_iff _ _ _).1 hn
    simp only [Src.wf, BitVec.toNat_ofNat, decide_eq_true_eq]
    omega

end Sys2Proof.Machine

namespace Sys2Proof.Claims

open Sys2Proof.Machine

/-- Settles O9: a token is classified as a register first, by its two characters. -/
theorem registerTokensAreExact : Obligations.RegisterTokensAreExact :=
  fun form tok d => (classify_eq_reg_iff form tok d).trans (regIdx_eq_some_iff tok d)

/-- Settles O10: the value of a literal is below `2^31`, so its word has that value. -/
theorem literalTokensAreExact : Obligations.LiteralTokensAreExact := by
  intro form tok v
  simp only [classify_eq_lit_iff, literalValue_eq_some_iff, ← BitVec.toNat_inj, BitVec.toNat_ofNat]
  constructor
  · rintro ⟨n, ⟨hdigits, hle, hform, rfl⟩, hv⟩
    exact ⟨hdigits, hle, hform, by omega⟩
  · rintro ⟨hdigits, hle, hform, hv⟩
    exact ⟨_, ⟨hdigits, hle, hform, rfl⟩, by omega⟩

end Sys2Proof.Claims
end

section
/-! PROOFS. The word and the text of one instruction: they are decoded alike (R79, R84), so a step of the one is a step of
the other, and what the decoder says of words it says of the words of texts. -/

namespace Sys2Proof.Machine

open Sys2Proof.Claims

/-! ## Mnemonics -/

/-- The dispatch table is that of the 17 mnemonics (R76). -/
theorem mnemonicTable_names : mnemonicTable.map Prod.fst = mnemonics := by decide

/-- A mnemonic of the table has an opcode number up to 16, any other text has 31 (R76, R82). -/
theorem opcOf_cases (mn : Text) : (mn ∉ mnemonics ∧ opcOf mn = 31#5) ∨ (mn ∈ mnemonics ∧ (opcOf mn).toNat ≤ 16) := by
  have hsmall : ∀ q ∈ mnemonicTable, q.2.toNat ≤ 16 := by decide
  rw [← mnemonicTable_names]
  rcases opcIn_cases mn mnemonicTable with ⟨h31, hmn⟩ | hmem
  · exact .inl ⟨hmn, h31⟩
  · exact .inr ⟨List.mem_map.2 ⟨_, hmem, rfl⟩, hsmall _ hmem⟩

/-- The mnemonics of registers and literals have their instructions' numbers (R76). -/
theorem srcInstr_opcOf {q : Text × (Operands Src → Instr)} (hq : q ∈ srcMnemonics) (ops : Operands Src) :
    srcInstr (opcOf q.1).toNat ops = some (q.2 ops) := by
  simp only [srcMnemonics, List.mem_cons, List.not_mem_nil, or_false] at hq
  rcases hq with rfl | rfl | rfl | rfl | rfl | rfl | rfl | rfl | rfl | rfl | rfl <;> rfl

/-- The mnemonics of the control-transfer instructions have their instructions' numbers (R76). -/
theorem jumpInstr_opcOf {q : Text × (Operands Target → Instr)} (hq : q ∈ jumpMnemonics) (ops : Operands Target) :
    jumpInstr (opcOf q.1).toNat ops = some (q.2 ops) := by
  simp only [jumpMnemonics, List.mem_cons, List.not_mem_nil, or_false] at hq
  rcases hq with rfl | rfl | rfl | rfl | rfl | rfl <;> rfl

/-! ## Operand lists of tokens -/

/-- What holds of every token's operand holds of the operands of a token list. -/
theorem operandsOf_all {α : Type} {f : Text → α} {p : α → Bool} (h : ∀ tok, p (f tok) = true) (toks : List Text) :
    (operandsOf f toks).all p = true := by
  rcases toks with _ | ⟨a, _ | ⟨b, _ | ⟨c, _ | ⟨d, rest⟩⟩⟩⟩ <;> simp [operandsOf, Operands.all, h]

/-- The operands of a token list are those of its tokens, in order (R84). -/
theorem operandsAre_operandsOf {α : Type} (f : Text → α) (toks : List Text) :
    OperandsAre (operandsOf f toks) (toks.map f) := by
  rcases toks with _ | ⟨a, _ | ⟨b, _ | ⟨c, _ | ⟨d, rest⟩⟩⟩⟩ <;> simp [OperandsAre, operandsOf, operandCount, keptOperands]

/-! ## The text decoder -/

section Texts

variable (form : LiteralForm) (labels : List (Text × Int)) {mn : Text} (toks : List Text)

/-- A text with a jump's opcode number (R73). -/
theorem decodeText_of_jumpOpc (h : 11 ≤ (opcOf mn).toNat ∧ (opcOf mn).toNat ≤ 16) :
    decodeText form labels mn toks = decodedOf (jumpInstr (opcOf mn).toNat (operandsOf (classifyLabel labels) toks)) :=
  if_pos ((isJumpOpc_iff _).2 h)

/-- A text with any other opcode number (R69). -/
theorem decodeText_of_srcOpc (h : ¬(11 ≤ (opcOf mn).toNat ∧ (opcOf mn).toNat ≤ 16)) :
    decodeText form labels mn toks = decodedOf (srcInstr (opcOf mn).toNat (operandsOf (classify form) toks)) :=
  if_neg (mt (isJumpOpc_iff _).1 h)

/-- The word of a text with a jump's opcode number (R79). -/
theorem diwOfText_of_jumpOpc (h : 11 ≤ (opcOf mn).toNat ∧ (opcOf mn).toNat ≤ 16) :
    diwOfText form labels mn toks = encodeOperands encodeTarget (opcOf mn) (operandsOf (classifyLabel labels) toks) :=
  if_pos ((isJumpOpc_iff _).2 h)

/-- The word of a text with any other opcode number (R79). -/
theorem diwOfText_of_srcOpc (h : ¬(11 ≤ (opcOf mn).toNat ∧ (opcOf mn).toNat ≤ 16)) :
    diwOfText form labels mn toks = encodeOperands encodeSrc (opcOf mn) (operandsOf (classify form) toks) :=
  if_neg (mt (isJumpOpc_iff _).1 h)

/-- A mnemonic of registers and literals dispatches to its instruction (R69, R72). -/
theorem decodeText_srcMnemonic {q : Text × (Operands Src → Instr)} (hq : q ∈ srcMnemonics) :
    decodeText form labels q.1 toks = .known (q.2 (operandsOf (classify form) toks)) := by
  have hi := srcInstr_opcOf hq (operandsOf (classify form) toks)
  obtain ⟨-, hopc, -⟩ := srcInstr_some hi
  rw [decodeText_of_srcOpc _ _ _ (by omega), hi, decodedOf]

/-- A mnemonic of a control-transfer instruction dispatches to it (R72, R73). -/
theorem decodeText_jumpMnemonic {q : Text × (Operands Target → Instr)} (hq : q ∈ jumpMnemonics) :
    decodeText form labels q.1 toks = .known (q.2 (operandsOf (classifyLabel labels) toks)) := by
  have hi := jumpInstr_opcOf hq (operandsOf (classifyLabel labels) toks)
  obtain ⟨-, hopc, -⟩ := jumpInstr_some hi
  rw [decodeText_of_jumpOpc _ _ _ hopc, hi, decodedOf]

/-- Any other mnemonic is no operation (R102). -/
theorem decodeText_of_not_mem (h : mn ∉ mnemonics) : decodeText form labels mn toks = .unknown := by
  obtain ⟨-, h31⟩ : mn ∉ mnemonics ∧ opcOf mn = 31#5 := (opcOf_cases mn).resolve_right fun hm => h hm.1
  rw [decodeText_of_srcOpc _ _ _ (by simp [h31]), h31]
  rfl

/-- A text is never ill-formed (R102). -/
theorem decodeText_ne_illFormed (r : BadWord) : decodeText form labels mn toks ≠ .illFormed r := by
  unfold decodeText
  split <;> exact decodedOf_ne_illFormed _ r

/-- The word of a text is read as its text is (R79, R81, R84). -/
theorem decode_diwOfText (mn : Text) : decode (diwOfText form labels mn toks) = decodeText form labels mn toks := by
  by_cases hjump : 11 ≤ (opcOf mn).toNat ∧ (opcOf mn).toNat ≤ 16
  · rw [diwOfText_of_jumpOpc _ _ _ hjump, decodeText_of_jumpOpc _ _ _ hjump, decode_encodeOperands_target hjump]
  · have hsrc : (opcOf mn).toNat ≤ 10 ∨ (opcOf mn).toNat = 31 := by
      rcases opcOf_cases mn with ⟨-, h31⟩ | ⟨-, hle⟩
      · exact .inr (by rw [h31]; rfl)
      · omega
    rw [diwOfText_of_srcOpc _ _ _ hjump, decodeText_of_srcOpc _ _ _ hjump,
      decode_encodeOperands_src hsrc (operandsOf_all (classify_wf form) toks)]

end Texts

/-! ## The word level -/

/-- An entry is decoded alike at both levels, the word level needing no label table (R30, R84). -/
theorem decodeEntry_entryToWord (form : LiteralForm) (labels : List (Text × Int)) (e : Entry) :
    decodeEntry form [] (entryToWord form labels e) = decodeEntry form labels e := by
  cases e with
  | text mn ops => exact decode_diwOfText form labels ops mn
  | word w => rfl

@[simp] theorem State.toWords_hs (s : State) : s.toWords.hs = s.hs := rfl

/-- The word level fetches the word of what the text level fetches. -/
theorem State.fetch_toWords (s : State) : s.toWords.fetch = s.fetch.map (entryToWord s.params.litForm s.labels) :=
  List.getElem?_map

/-- Taking a fatal error and going to the word level commute. -/
theorem State.toWords_raise (s : State) (e : Raised) : s.toWords.raise e = (s.raise e).toWords := rfl

/-- A commit and going to the word level commute. -/
theorem State.toWords_commit (s : State) (r : Result) : s.toWords.commit r = (s.commit r).toWords := by
  obtain ⟨res, wr, tgt⟩ := r
  cases wr <;> rfl

/-- An instruction does not see the level of the store. -/
theorem exec_toWords (i : Instr) (s : State) : exec i s.toWords = mapNext State.toWords (exec i s) := by
  have hsame : handlerOf i s.toWords = handlerOf i s := handlerOf_congr i rfl rfl fun _ => ⟨rfl, rfl⟩
  rw [exec_eq_finish_handlerOf, exec_eq_finish_handlerOf, hsame]
  cases handlerOf i s with
  | ok r => exact congrArg _ (s.toWords_commit r)
  | error e => rfl

/-! ## The step, by what the entry at `pc` decodes to -/

section Step

variable {s : State} {e : Entry} (hs : s.hs = .run) (he : s.fetch = some e)
include hs he

/-- An instruction is run (R102, R115). -/
theorem step_of_known {i : Instr} (hd : decodeEntry s.params.litForm s.labels e = .known i) : step s = exec i s := by
  simp [step, hs, he, hd]

/-- What is no instruction raises `UnknownOperation` (R102, R207). -/
theorem step_of_unknown (hd : decodeEntry s.params.litForm s.labels e = .unknown) :
    step s = .next (s.raise unknownOperation) := by
  simp [step, hs, he, hd]

/-- An ill-formed word is refused (R83, log entry 18). -/
theorem step_of_illFormed {r : BadWord} (hd : decodeEntry s.params.litForm s.labels e = .illFormed r) :
    step s = .refused (.illFormedWord r) := by
  simp [step, hs, he, hd]

end Step

end Sys2Proof.Machine

namespace Sys2Proof.Claims

open Sys2Proof.Machine

/-- Settles O57: well-formed operands are read back from the word, and 31 is read as unknown. -/
theorem textWordsAreReadAsTheirTexts : Obligations.TextWordsAreReadAsTheirTexts :=
  fun form labels mn toks => decode_diwOfText form labels toks mn

/-- Settles O7: the entries decode alike, and an instruction reads nothing of the two stores. -/
theorem wordsExecuteAsTheirTexts : Obligations.WordsExecuteAsTheirTexts := by
  intro s
  rcases step_cases s with ⟨k, p, o, hs, hstep⟩ | ⟨hs, hf, hstep⟩ | ⟨hs, e, he, hstep⟩
  · rw [hstep]
    simp [step, hs, mapNext]
  · rw [hstep]
    simp [step, hs, State.fetch_toWords, hf, mapNext]
  · have he' : s.toWords.fetch = some (entryToWord s.params.litForm s.labels e) := by rw [s.fetch_toWords, he, Option.map]
    have hd' := decodeEntry_entryToWord s.params.litForm s.labels e
    rcases hstep with ⟨i, hd, hstep⟩ | ⟨hd, hstep⟩ | ⟨r, hd, hstep⟩
    · rw [hstep, step_of_known (s := s.toWords) hs he' (hd'.trans hd), exec_toWords]
    · rw [hstep, step_of_unknown (s := s.toWords) hs he' (hd'.trans hd), State.toWords_raise, mapNext]
    · rw [hstep, step_of_illFormed (s := s.toWords) hs he' (hd'.trans hd), mapNext]

/-- Settles O5: the decoder refuses every word R83 names, and the word of a text is read as its text, never refused. -/
theorem illFormedWordsAreRefused : Obligations.IllFormedWordsAreRefused := by
  constructor
  · intro form labels mn ops
    refine ((decode_ne_illFormed_iff _).1 fun r => ?_).1
    rw [decode_diwOfText]
    exact decodeText_ne_illFormed form labels ops r
  · intro w hw
    obtain ⟨r, hr⟩ : ∃ r, decode w = .illFormed r := by
      by_contra hne
      exact ((decode_ne_illFormed_iff w).1 (not_exists.1 hne)).1 hw
    exact ⟨r, hr, fun s hs he => step_of_illFormed hs he hr⟩

/-- Settles O6: such a word is not refused, and no instruction has an opcode number of 17 or more. -/
theorem reservedOpcodesAreUnknownOperations : Obligations.ReservedOpcodesAreUnknownOperations := by
  refine ⟨fun form labels mn ops hmn => ?_, fun form labels mn ops hmn => ?_, fun w hopc hnamed hzero => ?_⟩
  · rw [opcField_diwOfText]
    exact ((opcOf_cases mn).resolve_right fun h => hmn h.1).2
  · rw [opcField_diwOfText]
    exact ((opcOf_cases mn).resolve_left fun h => h.1 hmn).2
  · have hw : decode w = .unknown := by
      cases h : decode w with
      | unknown => rfl
      | illFormed r => exact absurd h ((decode_ne_illFormed_iff w).2 ⟨hnamed, hzero⟩ r)
      | known i =>
        obtain ⟨-, hi, -⟩ := eq_encode_of_decode h
        have hle := i.opc_toNat_le
        rw [hi] at hopc
        omega
    exact ⟨hw, fun s hs he => step_of_unknown hs he hw⟩

/-- Settles O8: by the dispatch table, whose names are the mnemonics in the order of their numbers. -/
theorem mnemonicsDispatchExactly : Obligations.MnemonicsDispatchExactly := by
  refine ⟨fun form labels ops n => ?_, fun q hq form labels toks => ?_, fun q hq form labels toks => ?_,
    fun s mn ops hs he hmn => ?_⟩
  · have hn : (opcOf (mnemonics[n.val]'n.isLt)).toNat = n.val := by
      revert n
      decide
    have hlt := n.isLt
    by_cases hjump : 11 ≤ n.val ∧ n.val ≤ 16
    · obtain ⟨i, hi⟩ := exists_jumpInstr hjump (operandsOf (classifyLabel labels) ops)
      refine ⟨i, ?_, (jumpInstr_some hi).1⟩
      rw [decodeText_of_jumpOpc _ _ _ (hn.symm ▸ hjump), hn, hi, decodedOf]
    · obtain ⟨i, hi⟩ := exists_srcInstr (n := n.val) (by omega) (operandsOf (classify form) ops)
      refine ⟨i, ?_, (srcInstr_some hi).1⟩
      rw [decodeText_of_srcOpc _ _ _ (hn.symm ▸ hjump), hn, hi, decodedOf]
  · exact ⟨_, decodeText_srcMnemonic form labels toks hq, operandsAre_operandsOf _ toks⟩
  · exact ⟨_, decodeText_jumpMnemonic form labels toks hq, operandsAre_operandsOf _ toks⟩
  · exact step_of_unknown hs he (decodeText_of_not_mem _ _ ops hmn)

/-- Settles O1: the words by evaluation; neither word of the first two rows holds a label. -/
theorem exampleWordsAreReadRight : Obligations.ExampleWordsAreReadRight :=
  ⟨fun _ => rfl, by decide, fun _ => rfl, by decide, by decide, by decide, by decide, by decide⟩

end Sys2Proof.Claims
end

section
/-! PROOFS. Lines (R65 to R68). Both operand splits pass over a comma-free text in one way, so what each does at a comma
decides what it does with a text. -/

namespace Sys2Proof.Machine

open Sys2Proof.Claims

/-! ## The two splits at a comma -/

/-- The literal split passes over a character that is no comma (R66). -/
theorem splitDiscarding_cons {c : Char} (hc : c ≠ ',') (t : Text) :
    splitDiscarding (c :: t) = consHead c (splitDiscarding t) := by
  cases t with
  | nil => simp [splitDiscarding, consHead, hc]
  | cons d rest => simp [splitDiscarding, hc]

/-- A comma and the character after it end a token (R66). -/
theorem splitDiscarding_comma (c : Char) (rest : Text) :
    splitDiscarding (',' :: c :: rest) = [] :: splitDiscarding rest := by
  simp [splitDiscarding]

/-- Splitting at commas passes over a character that is no comma (R67). -/
theorem splitCommas_cons {c : Char} (hc : c ≠ ',') (t : Text) : splitCommas (c :: t) = consHead c (splitCommas t) := by
  simp [splitCommas, hc]

/-- A split that passes over all characters but commas puts a comma-free text before the first token of what follows, which
is empty at a comma and at the end. -/
theorem split_append {split : Text → List Text}
    (hsplit : ∀ {c}, c ≠ ',' → ∀ t, split (c :: t) = consHead c (split t)) {t : Text} {toks : List Text}
    (ht : split t = [] :: toks) {tok : Text} (htok : ',' ∉ tok) : split (tok ++ t) = tok :: toks := by
  induction tok with
  | nil => exact ht
  | cons c rest ih =>
    simp only [List.mem_cons, not_or] at htok
    obtain ⟨hc, hrest⟩ := htok
    rw [List.cons_append, hsplit (Ne.symm hc), ih hrest, consHead]

/-! ## `split_literal` -/

theorem splitLiteral_of_ne_nil {t : Text} (h : t ≠ []) : splitLiteral t = splitDiscarding t := if_neg h

section Literal

variable {tok : Text} (htok : ',' ∉ tok)
include htok

/-- A text without a comma is one token (R66). -/
theorem splitLiteral_token (hne : tok ≠ []) : splitLiteral tok = [tok] := by
  rw [splitLiteral_of_ne_nil hne]
  simpa using split_append splitDiscarding_cons (t := []) rfl htok

/-- A comma at the end leaves an empty token (R66). -/
theorem splitLiteral_token_comma : splitLiteral (tok ++ [',']) = [tok, []] := by
  rw [splitLiteral_of_ne_nil (by simp)]
  exact split_append splitDiscarding_cons rfl htok

/-- So does a comma with only the discarded character after it (R66). -/
theorem splitLiteral_token_comma_char (c : Char) : splitLiteral (tok ++ [',', c]) = [tok, []] := by
  rw [splitLiteral_of_ne_nil (by simp)]
  exact split_append splitDiscarding_cons (splitDiscarding_comma c []) htok

/-- After the discarded character the split goes on (R66). -/
theorem splitLiteral_token_append (c : Char) {rest : Text} (hne : rest ≠ []) :
    splitLiteral (tok ++ [',', c] ++ rest) = tok :: splitLiteral rest := by
  rw [splitLiteral_of_ne_nil (by simp), splitLiteral_of_ne_nil hne, List.append_assoc]
  exact split_append splitDiscarding_cons (splitDiscarding_comma c rest) htok

end Literal

/-! ## The split and trim of `SEP = trim` -/

theorem isBlank_iff (c : Char) : isBlank c = true ↔ Blank c := by simp [isBlank]

theorem notBlank_iff (c : Char) : notBlank c = true ↔ ¬Blank c := by simp [notBlank, ← isBlank_iff]

theorem all_isBlank_iff (t : Text) : t.all isBlank = true ↔ ∀ c ∈ t, Blank c := by
  simp only [List.all_eq_true, isBlank_iff]

/-- The model trims as the statements say it: blanks off the front, then off the back (R67). -/
theorem trimBlanks_eq_trimmed (t : Text) : trimBlanks t = trimmed t := by
  have hblank : isBlank = fun c => decide (c = ' ' ∨ c = '\t') := by
    funext c
    simp [isBlank]
  rw [trimBlanks, trimmed, List.rdropWhile, hblank]

/-- Comma-free pieces joined by commas are split into these pieces (R67). -/
theorem splitCommas_intercalate {pieces : List Text} (hne : pieces ≠ []) (h : ∀ p ∈ pieces, ',' ∉ p) :
    splitCommas ([','].intercalate pieces) = pieces := by
  induction pieces with
  | nil => exact absurd rfl hne
  | cons p rest ih =>
    obtain ⟨hp, hrest⟩ := List.forall_mem_cons.1 h
    cases rest with
    | nil =>
      rw [List.intercalate_singleton]
      simpa using split_append splitCommas_cons (t := []) rfl hp
    | cons q rest =>
      have hcomma (t : Text) : splitCommas (',' :: t) = [] :: splitCommas t := rfl
      rw [List.intercalate_cons_cons, List.append_assoc, List.singleton_append,
        split_append splitCommas_cons (hcomma _) hp, ih (List.cons_ne_nil _ _) hrest]

/-- A blank text has no operands (R67). -/
theorem splitTrim_of_blank {t : Text} (h : ∀ c ∈ t, Blank c) : splitTrim t = [] := if_pos ((all_isBlank_iff t).2 h)

/-- Any other text is split at its commas, each piece trimmed (R67). -/
theorem splitTrim_intercalate {pieces : List Text} (hne : pieces ≠ []) (h : ∀ p ∈ pieces, ',' ∉ p)
    (hblank : ∃ c ∈ [','].intercalate pieces, ¬Blank c) :
    splitTrim ([','].intercalate pieces) = pieces.map trimmed := by
  have hall : ¬([','].intercalate pieces).all isBlank = true := by
    obtain ⟨c, hc, hnot⟩ := hblank
    exact fun hall => hnot ((all_isBlank_iff _).1 hall c hc)
  rw [splitTrim, if_neg hall, splitCommas_intercalate hne h]
  exact List.map_congr_left fun p _ => trimBlanks_eq_trimmed p

/-! ## The mnemonic of a line -/

/-- Under `SEP = literal` the first space ends the mnemonic (R65). -/
theorem splitLine_literal_space {mn : Text} (h : ' ' ∉ mn) (t : Text) :
    splitLine .literal (mn ++ ' ' :: t) = (mn, splitLiteral t) := by
  have hmn : ∀ c ∈ mn, notSpace c = true := fun c hc => decide_eq_true fun he => h (he ▸ hc)
  simp [splitLine, List.takeWhile_append_of_pos hmn, List.dropWhile_append_of_pos hmn, notSpace]

/-- Under `SEP = literal` a line without a space is all mnemonic (R65). -/
theorem splitLine_literal_noSpace {line : Text} (h : ' ' ∉ line) : splitLine .literal line = (line, []) := by
  have hline : ∀ c ∈ line, notSpace c = true := fun c hc => decide_eq_true fun he => h (he ▸ hc)
  simp [splitLine, List.takeWhile_eq_self_iff.2 hline, List.dropWhile_eq_nil_iff.2 hline, splitLiteral]

/-- Under `SEP = trim` the mnemonic is the first run of characters that are no blanks (R65). -/
theorem splitLine_trim {blanks mn t : Text} (hblanks : ∀ c ∈ blanks, Blank c) (hne : mn ≠ []) (hmn : ∀ c ∈ mn, ¬Blank c)
    (ht : ∀ c, t.head? = some c → Blank c) : splitLine .trim (blanks ++ mn ++ t) = (mn, splitTrim t) := by
  have hskip : (blanks ++ mn ++ t).dropWhile isBlank = mn ++ t := by
    rw [List.append_assoc, List.dropWhile_append_of_pos fun c hc => (isBlank_iff c).2 (hblanks c hc)]
    obtain ⟨c, rest, rfl⟩ := List.exists_cons_of_ne_nil hne
    exact List.dropWhile_cons_of_neg (mt (isBlank_iff c).1 (hmn c List.mem_cons_self))
  have hrun : ∀ c ∈ mn, notBlank c = true := fun c hc => (notBlank_iff c).2 (hmn c hc)
  have hend : t.takeWhile notBlank = [] ∧ t.dropWhile notBlank = t := by
    cases t with
    | nil => exact ⟨rfl, rfl⟩
    | cons c rest =>
      have hc : ¬notBlank c = true := fun hc => (notBlank_iff c).1 hc (ht c rfl)
      exact ⟨List.takeWhile_cons_of_neg hc, List.dropWhile_cons_of_neg hc⟩
  simp only [splitLine, hskip, List.takeWhile_append_of_pos hrun, List.dropWhile_append_of_pos hrun, hend, List.append_nil]

/-- Under `SEP = trim` a line of blanks has the empty mnemonic and no operands (D8, log entry 17). -/
theorem splitLine_trim_blank {line : Text} (h : ∀ c ∈ line, Blank c) : splitLine .trim line = ([], []) := by
  have hskip : line.dropWhile isBlank = [] := List.dropWhile_eq_nil_iff.2 fun c hc => (isBlank_iff c).2 (h c hc)
  simp [splitLine, hskip, splitTrim]

/-! ## Canonical lines -/

/-- Canonical syntax holds no comma (R68). -/
theorem comma_notMem_of_plain {t : Text} (h : Plain t) : ',' ∉ t := by
  intro hmem
  obtain ⟨-, -, hcomma⟩ := h.2 _ hmem
  exact hcomma rfl

/-- Canonical syntax holds no blank (R68). -/
theorem not_blank_of_plain {t : Text} (h : Plain t) : ∀ c ∈ t, ¬Blank c := by
  intro c hmem
  obtain ⟨hspace, htab, -⟩ := h.2 c hmem
  exact not_or.2 ⟨hspace, htab⟩

/-- Canonical operands after a space are pieces, each with a space before it, joined by commas (R67, R68). -/
theorem cons_space_intercalate (t : Text) (ts : List Text) :
    ' ' :: [',', ' '].intercalate (t :: ts) = [','].intercalate ((t :: ts).map (' ' :: ·)) := by
  induction ts generalizing t with
  | nil => rfl
  | cons u rest ih =>
    have hu := ih u
    simp only [List.map_cons] at hu ⊢
    rw [List.intercalate_cons_cons, List.intercalate_cons_cons, ← hu]
    simp

/-- Trimming a token with a space before it gives the token back (R67). -/
theorem trimmed_cons_space {t : Text} (ht : Plain t) : trimmed (' ' :: t) = t := by
  have hblank : ∀ c ∈ t, ¬decide (c = ' ' ∨ c = '\t') = true := fun c hc =>
    mt of_decide_eq_true (not_blank_of_plain ht c hc)
  have hfront : (' ' :: t).dropWhile (fun c => decide (c = ' ' ∨ c = '\t')) = t := by
    rw [List.dropWhile_cons_of_pos (by decide)]
    obtain ⟨c, rest, rfl⟩ := List.exists_cons_of_ne_nil ht.1
    exact List.dropWhile_cons_of_neg (hblank c List.mem_cons_self)
  rw [trimmed, hfront, List.rdropWhile_eq_self_iff]
  exact fun hl => hblank _ (List.getLast_mem hl)

section Canonical

variable {toks : List Text} (h : ∀ t ∈ toks, Plain t)
include h

/-- Canonical operands are split by `split_literal` into their tokens (R66, R68). -/
theorem splitLiteral_canonical : splitLiteral ([',', ' '].intercalate toks) = toks := by
  induction toks with
  | nil => rfl
  | cons t rest ih =>
    obtain ⟨ht, hrest⟩ := List.forall_mem_cons.1 h
    have hcomma := comma_notMem_of_plain ht
    cases rest with
    | nil => rw [List.intercalate_singleton, splitLiteral_token hcomma ht.1]
    | cons u rest =>
      have hrest_ne : [',', ' '].intercalate (u :: rest) ≠ [] := by
        obtain ⟨c, u', rfl⟩ := List.exists_cons_of_ne_nil (hrest u List.mem_cons_self).1
        cases rest <;> simp
      rw [List.intercalate_cons_cons, splitLiteral_token_append hcomma ' ' hrest_ne, ih hrest]

/-- Canonical operands after a space are split under `SEP = trim` into their tokens (R67, R68). -/
theorem splitTrim_canonical (hne : toks ≠ []) : splitTrim (' ' :: [',', ' '].intercalate toks) = toks := by
  obtain ⟨t, ts, rfl⟩ := List.exists_cons_of_ne_nil hne
  have hcomma : ∀ p ∈ (t :: ts).map (' ' :: ·), ',' ∉ p := by
    intro p hp
    obtain ⟨u, hu, rfl⟩ := List.mem_map.1 hp
    simpa using comma_notMem_of_plain (h u hu)
  have hblank : ∃ c ∈ [','].intercalate ((t :: ts).map (' ' :: ·)), ¬Blank c := by
    have ht := h t List.mem_cons_self
    obtain ⟨c, rest, rfl⟩ := List.exists_cons_of_ne_nil ht.1
    refine ⟨c, ?_, not_blank_of_plain ht c List.mem_cons_self⟩
    rw [← cons_space_intercalate]
    cases ts <;> simp
  rw [cons_space_intercalate, splitTrim_intercalate (by simp) hcomma hblank, List.map_map]
  exact (List.map_congr_left fun u hu => trimmed_cons_space (h u hu)).trans (List.map_id _)

end Canonical

end Sys2Proof.Machine

namespace Sys2Proof.Claims

open Sys2Proof.Machine

/-- Settles O12: each clause is what the split does at the first comma. -/
theorem literalSplitDiscardsOneCharacter : Obligations.LiteralSplitDiscardsOneCharacter :=
  ⟨rfl, fun _ htok => ⟨splitLiteral_token htok, splitLiteral_token_comma htok, fun c =>
    ⟨splitLiteral_token_comma_char htok c, fun _ hne => splitLiteral_token_append htok c hne⟩⟩⟩

/-- Settles O13: comma-free pieces are what splitting at commas gives back. -/
theorem trimSplitTrimsPieces : Obligations.TrimSplitTrimsPieces :=
  ⟨fun _ h => splitTrim_of_blank h, fun _ hne h ⟨c, hc, hblank⟩ =>
    splitTrim_intercalate hne h ⟨c, hc, not_or.2 hblank⟩⟩

/-- Settles O58: by where the first space, or the first run of characters that are no blanks, ends. -/
theorem linesSplitAtTheirMnemonic : Obligations.LinesSplitAtTheirMnemonic :=
  ⟨fun _ t h => splitLine_literal_space h t, fun _ => splitLine_literal_noSpace, fun _ _ _ => splitLine_trim,
    fun _ => splitLine_trim_blank⟩

/-- Settles O11: under `SEP = trim` the operands are pieces with one space before each, which trimming removes. -/
theorem canonicalLinesSplitAlike : Obligations.CanonicalLinesSplitAlike := by
  intro sep mn toks hmn htoks
  have hne := hmn.1
  have hblank := not_blank_of_plain hmn
  have hspace : ' ' ∉ mn := fun hmem => hblank _ hmem (.inl rfl)
  cases toks with
  | nil =>
    cases sep with
    | literal => exact splitLine_literal_noSpace hspace
    | trim =>
      have hsplit := splitLine_trim (blanks := []) (t := []) (by simp) hne hblank (by simp)
      simpa [canonicalLine, splitTrim] using hsplit
  | cons t ts =>
    have hline : canonicalLine mn (t :: ts) = mn ++ ' ' :: [',', ' '].intercalate (t :: ts) := by simp [canonicalLine]
    rw [hline]
    cases sep with
    | literal => rw [splitLine_literal_space hspace, splitLiteral_canonical htoks]
    | trim =>
      have hsplit := splitLine_trim (blanks := []) (t := ' ' :: [',', ' '].intercalate (t :: ts)) (by simp) hne hblank
        (by simp [Blank])
      rwa [splitTrim_canonical htoks (List.cons_ne_nil t ts)] at hsplit

end Sys2Proof.Claims
end

section
/-! PROOFS. Loading (R61 to R64, R230, R233): which lines are labels and which are instructions, the label table and the
store as what the lines say, and the four ways a boot can go. -/

namespace Sys2Proof.Machine

open Sys2Proof.Claims

/-! ## Label lines and instruction lines -/

/-- The model's label lines are those of the statements (R61). -/
theorem isLabelLine_iff (l : Text) : isLabelLine l = true ↔ IsLabel l := decide_eq_true_iff

/-- A label line is its name and a colon (R61). -/
theorem labelName_append {l : Text} (h : IsLabel l) : labelName l ++ [':'] = l := List.dropLast_append_getLast? _ h

/-- Label lines of one name are equal (R61). -/
theorem labelName_injOn {k l : Text} (hk : IsLabel k) (hl : IsLabel l) (h : labelName k = labelName l) : k = l := by
  rw [← labelName_append hk, ← labelName_append hl, h]

/-- The label grammar is kept exactly where no label line is bad (R61). -/
theorem any_badLabelLine_iff (lines : List Text) : lines.any badLabelLine = false ↔ LabelsKeepTheGrammar lines := by
  simp [LabelsKeepTheGrammar, badLabelLine, isLabelLine_iff, labelName, List.any_eq_false]

/-- The instruction lines are counted as the statements count them (R64). -/
theorem length_instructionLines (lines : List Text) : (instructionLines lines).length = instrCount lines := by
  simp [instructionLines, instrCount, List.countP_eq_length_filter, isLabelLine]

/-- The instruction lines keep the order of the lines (R64). -/
theorem instructionLines_append (before after : List Text) :
    instructionLines (before ++ after) = instructionLines before ++ instructionLines after := List.filter_append ..

/-! ## The label table -/

/-- The labels of a program are those of its first lines, then those of the rest with the first lines counted (R62). -/
theorem labelsFrom_append (c : Nat) (before after : List Text) :
    labelsFrom c (before ++ after) = labelsFrom c before ++ labelsFrom (c + instrCount before) after := by
  induction before generalizing c with
  | nil => simp [labelsFrom, instrCount]
  | cons l rest ih =>
    by_cases hl : IsLabel l
    · have hcount : instrCount (l :: rest) = instrCount rest := List.countP_cons_of_neg (by simp [hl])
      simp [labelsFrom, (isLabelLine_iff l).2 hl, ih, hcount]
    · have hcount : instrCount (l :: rest) = instrCount rest + 1 := List.countP_cons_of_pos (by simpa using hl)
      have hnext : c + 1 + instrCount rest = c + (instrCount rest + 1) := by omega
      simp [labelsFrom, mt (isLabelLine_iff l).1 hl, ih, hcount, hnext]

/-- A label line has its row in the table (R62). -/
theorem mem_labelsFrom {l : Text} (hl : IsLabel l) (before after : List Text) :
    (labelName l, (instrCount before : Int) - 1) ∈ labelsFrom 0 (before ++ l :: after) := by
  simp [labelsFrom_append, labelsFrom, (isLabelLine_iff l).2 hl]

/-- The names of the table are those of the label lines, in order (R62). -/
theorem labelsFrom_names (c : Nat) (lines : List Text) :
    (labelsFrom c lines).map Prod.fst = (lines.filter fun l => decide (IsLabel l)).map labelName := by
  induction lines generalizing c with
  | nil => rfl
  | cons l rest ih =>
    by_cases hl : IsLabel l
    · rw [List.filter_cons_of_pos (by simpa using hl)]
      simp [labelsFrom, (isLabelLine_iff l).2 hl, ih]
    · rw [List.filter_cons_of_neg (by simpa using hl)]
      simp [labelsFrom, mt (isLabelLine_iff l).1 hl, ih]

/-- The names of the table are unique exactly where the label lines are distinct (R61, R63). -/
theorem nodup_labelsFrom_iff (lines : List Text) :
    ((labelsFrom 0 lines).map Prod.fst).Nodup ↔ LabelsAreDistinct lines := by
  rw [labelsFrom_names, LabelsAreDistinct]
  refine ⟨List.Nodup.of_map _, List.Nodup.map_on fun k hk l hl => labelName_injOn ?_ ?_⟩
  · exact of_decide_eq_true (List.mem_filter.1 hk).2
  · exact of_decide_eq_true (List.mem_filter.1 hl).2

/-- A name in the table has its label line (R62). -/
theorem mem_lines_of_mem_labelsFrom {c : Nat} {lines : List Text} {name : Text} {v : Int}
    (h : (name, v) ∈ labelsFrom c lines) : name ++ [':'] ∈ lines := by
  have hname : name ∈ (labelsFrom c lines).map Prod.fst := List.mem_map.2 ⟨_, h, rfl⟩
  rw [labelsFrom_names] at hname
  obtain ⟨l, hl, rfl⟩ := List.mem_map.1 hname
  obtain ⟨hmem, hlabel⟩ := List.mem_filter.1 hl
  rwa [labelName_append (of_decide_eq_true hlabel)]

/-- A name without a row in the table is an undefined label (R30, R73). -/
theorem classifyLabel_of_not_mem {labels : List (Text × Int)} {name : Text} (h : ∀ v, (name, v) ∉ labels) :
    classifyLabel labels name = .undefined := by
  cases hl : lookupLabel labels name with
  | none => rw [classifyLabel, hl]
  | some v => exact absurd (mem_of_lookupLabel hl) (h v)

/-! ## How a boot goes -/

section Boot

variable (p : Params) {lines : List Text}

/-- A program with a bad label line is refused (R61, R233). -/
theorem boot_of_badLabelLine (h : ¬LabelsKeepTheGrammar lines) : boot p lines = .refused .labelGrammar := by
  rw [← any_badLabelLine_iff, Bool.not_eq_false] at h
  simp [boot, load, h]

variable (hgrammar : LabelsKeepTheGrammar lines)
include hgrammar

/-- A grammatical program of more than `NMAX` instructions is refused (R64, R233). -/
theorem boot_of_tooLong (h : maxInstructions < instrCount lines) : boot p lines = .refused .tooLong := by
  simp [boot, load, (any_badLabelLine_iff lines).2 hgrammar, length_instructionLines, h]

variable (hlen : instrCount lines ≤ maxInstructions)
include hlen

/-- A grammatical program of at most `NMAX` instructions with two equal labels fails to load (R63, R233). -/
theorem boot_of_duplicateLabel (h : ¬LabelsAreDistinct lines) :
    boot p lines = .started (State.resetWith p [] [] (.fault .duplicateLabel 0#32 none)) := by
  rw [← nodup_labelsFrom_iff] at h
  simp [boot, load, (any_badLabelLine_iff lines).2 hgrammar, length_instructionLines, hlen.not_gt, h]

/-- With distinct labels it starts (R60 to R64, R230). -/
theorem boot_of_distinct (h : LabelsAreDistinct lines) :
    boot p lines =
      .started (State.resetWith p ((instructionLines lines).map (entryOfLine p.sep)) (labelsFrom 0 lines) .run) := by
  rw [← nodup_labelsFrom_iff] at h
  simp [boot, load, (any_badLabelLine_iff lines).2 hgrammar, length_instructionLines, hlen.not_gt, h]

end Boot

/-- A program that starts in `RUN` has the label table of its lines (R62, R230). -/
theorem labels_of_boot_run {p : Params} {lines : List Text} {s : State} (h : boot p lines = .started s) (hs : s.hs = .run) :
    s.labels = labelsFrom 0 lines := by
  unfold boot at h
  split at h
  case h_1 imem labels hload =>
    cases h
    obtain ⟨-, -, -, rfl⟩ := load_ok _ _ _ _ hload
    rfl
  case h_2 =>
    cases h
    cases hs
  case h_3 => cases h

/-- Each of the six jumps to an undefined label raises `UnknownLabel(0)`, whatever the flags (R176). -/
theorem exec_jump_undefined {q : Text × (Operands Target → Instr)} (hq : q ∈ jumpMnemonics) (s : State) :
    exec (q.2 (.one .undefined)) s = .next (s.raise unknownLabel) := by
  simp only [jumpMnemonics, List.mem_cons, List.not_mem_nil, or_false] at hq
  rcases hq with rfl | rfl | rfl | rfl | rfl | rfl <;> rfl

end Sys2Proof.Machine

namespace Sys2Proof.Claims

open Sys2Proof.Machine

/-- Settles O14: the label's row stands in a table of unique names, all of whose values are in range. -/
theorem labelValuesCountInstructions : Obligations.LabelValuesCountInstructions := by
  intro sep before l after imem labels hload hl
  obtain ⟨-, hnodup, rfl, rfl⟩ := load_ok _ _ _ _ hload
  have hmem := mem_labelsFrom hl before after
  refine ⟨lookupLabel_of_mem _ hnodup _ _ hmem, ?_⟩
  have hrange := labelsFrom_inRange hmem
  simpa [inLabelRange] using hrange

/-- Settles O15: the store is the instruction lines in order, and those before a line are counted. -/
theorem instructionLinesAreDense : Obligations.InstructionLinesAreDense := by
  intro sep before l after imem labels hload
  obtain ⟨-, -, rfl, -⟩ := load_ok _ _ _ _ hload
  refine ⟨by rw [List.length_map, length_instructionLines], fun hl => ?_⟩
  have hcons : instructionLines (l :: after) = l :: instructionLines after :=
    List.filter_cons_of_pos (by simpa [← isLabelLine_iff] using hl)
  rw [instructionLines_append, hcons, ← length_instructionLines, List.getElem?_map,
    List.getElem?_append_right le_rfl, Nat.sub_self]
  rfl

/-- Settles O16: two equal label lines are not distinct, and a faulted core has no step. -/
theorem duplicateLabelFailsTheLoad : Obligations.DuplicateLabelFailsTheLoad := by
  rintro p before l between m after hl - rfl hgrammar hlen
  have hdup : ¬LabelsAreDistinct (before ++ l :: between ++ l :: after) := by
    rw [LabelsAreDistinct, List.filter_append, List.nodup_append]
    rintro ⟨-, -, hne⟩
    have hl := decide_eq_true hl
    exact hne l (by simp [hl]) l (by simp [hl]) rfl
  exact ⟨_, boot_of_duplicateLabel p hgrammar hlen hdup, rfl, rfl⟩

/-- Settles O17: such a line breaks the grammar, which the loader checks first. -/
theorem badLabelLinesAreRefused : Obligations.BadLabelLinesAreRefused := by
  intro p lines l hmem hl hbad
  refine boot_of_badLabelLine p fun hgrammar => ?_
  obtain ⟨hname, hcolon⟩ := hgrammar l hmem hl
  exact hbad.elim hname hcolon

/-- Settles O59: the loader's three checks, in order. -/
theorem grammaticalProgramsStartUnlessTooLong : Obligations.GrammaticalProgramsStartUnlessTooLong := by
  refine fun p lines hgrammar => ⟨fun hlen hdistinct => ?_, boot_of_tooLong p hgrammar⟩
  refine ⟨_, boot_of_distinct p hgrammar hlen hdistinct, rfl, rfl, ?_⟩
  simp [State.resetWith, length_instructionLines]

/-- Settles O56: the loaded table has no row for a name without a label line, and the label is looked up before the flags. -/
theorem labelOperandsAreLookedUp : Obligations.LabelOperandsAreLookedUp := by
  refine ⟨fun labels name v hnodup hmem => ?_, fun labels name => classifyLabel_of_not_mem,
    fun p lines s0 name hboot hrun hname => ?_⟩
  · rw [classifyLabel, lookupLabel_of_mem labels hnodup name v hmem]
  · have hundef : classifyLabel s0.labels name = .undefined := by
      rw [labels_of_boot_run hboot hrun]
      exact classifyLabel_of_not_mem fun v hmem => hname (mem_lines_of_mem_labelsFrom hmem)
    refine ⟨hundef, fun q hq s hs hlabels he => ?_⟩
    have hd : decodeEntry s.params.litForm s.labels (.text q.1 [name]) = .known (q.2 (.one .undefined)) := by
      rw [← hundef, ← hlabels]
      exact decodeText_jumpMnemonic _ _ [name] hq
    rw [step_of_known hs he hd, exec_jump_undefined hq]
    rfl

end Sys2Proof.Claims
end

section
/-! PROOFS. The statements of 40_datapath.md. A step is decided by `HS`, by `pc` against `N` and by what the entry at `pc`
decodes to; an instruction by its handler, which fails first on the operand count and jumps only to its labels. -/

namespace Sys2Proof.Machine

open Sys2Proof.Claims

/-! ## Where there is no step, and where there is one -/

/-- A faulted core has no step (R100). -/
theorem step_of_faulted {s : State} (h : s.hs ≠ .run) : step s = .fault .coreFaulted := by
  rcases step_cases s with ⟨_, _, _, _, hstep⟩ | ⟨hs, _⟩ | ⟨hs, _⟩
  · exact hstep
  · exact absurd hs h
  · exact absurd hs h

/-- A running core at or past `N` has ended its run (R100, R111). -/
theorem step_of_ended {s : State} (hs : s.hs = .run) (hpc : s.count ≤ s.pc.toNat) : step s = .fault .runEnded := by
  simp [step, hs, s.fetch_eq_none_iff.2 hpc]

/-- Every meaning answers a next state: a commit or a fatal error (R115). -/
theorem exec_eq_next (i : Instr) (s : State) : ∃ t, exec i s = .next t := by
  rw [exec_eq_finish_handlerOf]
  rcases finish_cases s (handlerOf i s) with ⟨r, _, hf⟩ | ⟨e, _, hf⟩
  · exact ⟨_, hf⟩
  · exact ⟨_, hf⟩

/-- Only a word can be ill-formed (R83, R102). -/
theorem decodeEntry_illFormed {form : LiteralForm} {labels : List (Text × Int)} {e : Entry} {r : BadWord}
    (h : decodeEntry form labels e = .illFormed r) : ∃ w, e = .word w ∧ decode w = .illFormed r := by
  cases e with
  | text mn toks => exact absurd h (decodeText_ne_illFormed form labels toks r)
  | word w => exact ⟨w, rfl, h⟩

/-- A running core steps on any entry that is no ill-formed word (R100, R102). -/
theorem step_eq_next {s : State} {e : Entry} (hs : s.hs = .run) (he : s.fetch = some e)
    (hword : ∀ w r, e = .word w → decode w ≠ .illFormed r) : ∃ t, step s = .next t := by
  cases hd : decodeEntry s.params.litForm s.labels e with
  | known i =>
    rw [step_of_known hs he hd]
    exact exec_eq_next i s
  | unknown => exact ⟨_, step_of_unknown hs he hd⟩
  | illFormed r =>
    obtain ⟨w, hw, hr⟩ := decodeEntry_illFormed hd
    exact absurd hr (hword w r hw)

/-! ## The operand count of the handler forms -/

/-- `mov` takes two operands (R103). -/
theorem handleMov_of_count {s : State} {ops : Operands Src} (h : operandCount ops ≠ 2) :
    handleMov ops s = .error arityError := by
  cases ops with
  | two a b => exact absurd rfl h
  | zero | one | three | fourPlus => rfl

/-- `not` takes one operand (R103). -/
theorem handleNot_of_count {s : State} {ops : Operands Src} (h : operandCount ops ≠ 1) :
    handleNot ops s = .error arityError := by
  cases ops with
  | one a => exact absurd rfl h
  | zero | two | three | fourPlus => rfl

/-- The comparison form takes two operands (R103). -/
theorem compareTwo_of_count {s : State} {ops : Operands Src} {f : Word → Word → Except Raised Word}
    (h : operandCount ops ≠ 2) : compareTwo s ops f = .error arityError := by
  cases ops with
  | two a b => exact absurd rfl h
  | zero | one | three | fourPlus => rfl

/-- The two- or three-operand form takes no other count (R103, R106). -/
theorem twoOrThree_of_count {s : State} {ops : Operands Src} {f : Word → Word → Except Raised Word}
    (h : ¬(operandCount ops = 2 ∨ operandCount ops = 3)) : twoOrThree s ops f = .error arityError := by
  cases ops with
  | two a b => exact absurd (.inl rfl) h
  | three a b c => exact absurd (.inr rfl) h
  | zero | one | fourPlus => rfl

/-- The control-transfer form takes one operand (R103). -/
theorem jumpWhen_of_count {taken : Bool} {res : Word} {ops : Operands Target} (h : operandCount ops ≠ 1) :
    jumpWhen taken res ops = .error arityError := by
  cases ops with
  | one t => exact absurd rfl h
  | zero | two | three | fourPlus => rfl

/-- Every handler checks the operand count before anything else (R103, R208). -/
theorem handlerOf_of_not_acceptsCount {i : Instr} (s : State) (h : ¬acceptsCount i) :
    handlerOf i s = .error arityError := by
  cases i with
  | mov ops => exact handleMov_of_count h
  | not ops => exact handleNot_of_count h
  | cmp ops | test ops => simp only [handlerOf, compareTwo_of_count h]
  | add ops | sub ops | mul ops | div ops | and ops | or ops | xor ops => exact twoOrThree_of_count h
  | jmp ops | je ops | jl ops | jle ops | jg ops | jge ops => exact jumpWhen_of_count h

/-! ## The placed word and the empty program -/

/-- The host's word is placed as it is, having no bit at or above 128. -/
theorem State.withFetchWord_eq_placeWord (s : State) {w : Nat} (hw : w < 2 ^ 128) :
    s.withFetchWord 128 w = s.placeWord (BitVec.ofNat 128 w) := by
  rw [State.withFetchWord, Nat.mod_eq_of_lt hw]

/-- The empty program starts at the reset state of two empty stores (R111, R230). -/
theorem boot_nil (p : Params) : boot p [] = .started (State.resetWith p [] [] .run) :=
  boot_of_distinct p (lines := []) (fun _ hl => nomatch hl) (Nat.zero_le _) List.nodup_nil

end Sys2Proof.Machine

namespace Sys2Proof.Claims

open Sys2Proof.Machine

/-- Settles O23: below `N` there is an entry, which is refused only if it is an ill-formed word. -/
theorem stepExistsExactlyWhileRunning : Obligations.StepExistsExactlyWhileRunning := by
  refine fun s => ⟨fun hs hpc => ?_, step_of_ended, step_of_faulted⟩
  have he : s.imem[s.pc.toNat]? = some s.imem[s.pc.toNat] := List.getElem?_eq_getElem hpc
  exact ⟨_, he, step_eq_next hs he, fun w r hw hr => step_of_illFormed hs (he.trans (congrArg some hw)) hr⟩

/-- Settles O24: a meaning is the end of its handler. -/
theorem everyInstructionHasANextState : Obligations.EveryInstructionHasANextState := exec_eq_next

/-- Settles O27: the handler raises `ArityError`, and a fatal error writes the halt state alone. -/
theorem wrongOperandCountIsArityError : Obligations.WrongOperandCountIsArityError := by
  intro i s h
  rw [exec_eq_finish_handlerOf, handlerOf_of_not_acceptsCount s h, finish_error]
  rfl

/-- Settles O30: a completed instruction is committed, and its handler jumps only to a label value it holds. -/
theorem pcAdvancesOrJumpsPastALabel : Obligations.PcAdvancesOrJumpsPastALabel := by
  intro i s t _ hexec hrun
  rcases exec_next_handlerOf hexec with ⟨r, hr, rfl⟩ | ⟨e, _, rfl⟩
  · rw [State.commit_pc]
    cases htgt : r.tgt with
    | none => exact .inl (nextPc_none _)
    | some v => exact .inr ⟨v, handlerOf_ok_target hr htgt, nextPc_some _ v⟩
  · exact nomatch hrun

/-- Settles O35: the invariant bounds `pc` by `N`, and the empty program starts with both 0. -/
theorem runsEndExactlyAtN : Obligations.RunsEndExactlyAtN := by
  refine ⟨fun s hinv hs hpc => ⟨hinv.pc.antisymm hpc, step_of_ended hs hpc⟩, fun p s hboot => ?_⟩
  obtain rfl : State.resetWith p [] [] .run = s := by simpa [boot_nil] using hboot
  exact ⟨rfl, rfl, step_of_ended rfl (Nat.zero_le _)⟩

/-- Settles O21: the step dispatches to the decoded instruction and adds nothing. -/
theorem stepRunsTheDecodedInstruction : Obligations.StepRunsTheDecodedInstruction :=
  fun _ _ _ hs he hd => step_of_known hs he hd

/-- Settles O22: a placed word is what the next step fetches, and placing it writes the store and the halt state alone. -/
theorem placedWordRunsNext : Obligations.PlacedWordRunsNext := by
  intro s w i hw hd
  rw [s.withFetchWord_eq_placeWord hw]
  exact ⟨step_of_known rfl (s.fetch_placeWord _) hd, rfl, rfl, rfl, rfl⟩

end Sys2Proof.Claims
end

section
/-! PROOFS. The statement of 41_data_movement.md, after the facts that tie the statements' words (`srcValue`, `faulted`) to
the operand resolver and to the end of an instruction. `mov` fails on its destination before its source (R208). -/

namespace Sys2Proof.Machine

open Sys2Proof.Claims

/-! ## Sources and the end of an instruction in the statements' words -/

/-- A source resolves exactly to its value (R104). -/
theorem resolve_ok_iff_srcValue (s : State) (k : OperandIndex) (o : Src) (v : Word) :
    resolve s k o = .ok v ↔ srcValue s o = some v := by
  cases o <;> simp [srcValue, State.reg]

/-- A source has no value exactly where resolving it raises `OperandError(k)` (R104). -/
theorem resolve_eq_operandError_iff (s : State) (k : OperandIndex) (o : Src) :
    resolve s k o = .error (operandError k) ↔ srcValue s o = none := by
  cases o <;> simp [srcValue]

/-- An instruction whose handler returns a result commits it (R107, R115). -/
theorem exec_of_handlerOf_ok {i : Instr} {s : State} {r : Result} (h : handlerOf i s = .ok r) :
    exec i s = .next (s.commit r) := by
  rw [exec_eq_finish_handlerOf, h, finish_ok]

/-- An instruction whose handler raises an error writes the halt state alone (R115, R209). -/
theorem exec_of_handlerOf_error {i : Instr} {s : State} {e : Raised} (h : handlerOf i s = .error e) :
    exec i s = .next (faulted s e.kind e.opnd) := by
  rw [exec_eq_finish_handlerOf, h, finish_error]
  rfl

/-- Committing a register write with recent result 0 sets `ZF` and clears `SF`, whatever is written (R108, R109). -/
theorem State.commit_write_of_zero (s : State) (d : RegIndex) (v : Word) :
    s.commit { res := 0#32, wr := some (d, v), tgt := none } =
      { s with x := s.x.set d v, zf := true, sf := false, pc := s.pc + 1#32 } := by
  have hzf : zeroFlagOf 0#32 = true := rfl
  have hsf : signFlagOf 0#32 = false := signFlagOf_eq_msb 0#32
  simp only [State.commit, State.applyWrite_some, State.setFlags, hzf, hsf, nextPc_none]
  rfl

/-! ## The handler of `mov` on two operands -/

/-- A destination that is no register fails first, whatever the source (R130, R208). -/
theorem handlerOf_mov_of_not_reg {s : State} {a b : Src} (h : ∀ d, a ≠ .reg d) :
    handlerOf (.mov (.two a b)) s = .error (operandError 0) := by
  simp only [handlerOf, handleMov, (needReg_error_iff 0 a _).2 ⟨h, rfl⟩]

/-- With a register destination a bad source fails (R130). -/
theorem handlerOf_mov_of_bad_source {s : State} {d : RegIndex} {b : Src} (h : srcValue s b = none) :
    handlerOf (.mov (.two (.reg d) b)) s = .error (operandError 1) := by
  simp only [handlerOf, handleMov, needReg_reg, (resolve_eq_operandError_iff s 1 b).2 h]

/-- With a register destination the value of the source is written, and the recent result is 0 (R130). -/
theorem handlerOf_mov_of_value {s : State} {d : RegIndex} {b : Src} {v : Word} (h : srcValue s b = some v) :
    handlerOf (.mov (.two (.reg d) b)) s = .ok { res := 0#32, wr := some (d, v), tgt := none } := by
  simp only [handlerOf, handleMov, needReg_reg, (resolve_ok_iff_srcValue s 1 b v).2 h]

end Sys2Proof.Machine

namespace Sys2Proof.Claims

open Sys2Proof.Machine

/-- Settles O37: one fact about the handler of `mov` per clause; the commit of recent result 0 sets `ZF` and clears `SF`. -/
theorem movMovesItsSource : Obligations.MovMovesItsSource := by
  refine ⟨Laws.OpcodeField.mov, fun s ops => ⟨fun hcount => wrongOperandCountIsArityError _ s hcount, ?_⟩⟩
  rintro a b rfl
  refine ⟨fun ha => exec_of_handlerOf_error (handlerOf_mov_of_not_reg ha), ?_⟩
  rintro d rfl
  refine ⟨fun hb => exec_of_handlerOf_error (handlerOf_mov_of_bad_source hb), fun v hb => ?_⟩
  rw [exec_of_handlerOf_ok (handlerOf_mov_of_value hb), State.commit_write_of_zero]

end Sys2Proof.Claims
end

section
/-! PROOFS. The statements of 42_comparison.md. The end of a completed instruction and the overflow check are said first
in the statements' words (`completed`, `Fits`); the comparison form then has one fact per way it can go. -/

namespace Sys2Proof.Machine

open Sys2Proof.Claims

/-! ## Completion and the overflow check in the statements' words -/

/-- A commit is the completion of the statements: registers, the flags of the recent result, and `pc` (R108 to R110). -/
theorem State.commit_eq_completed (s : State) (r : Result) :
    s.commit r = completed s (s.applyWrite r.wr).x r.res (nextPc s.pc r.tgt) := by
  obtain ⟨res, wr, tgt⟩ := r
  cases wr <;> simp only [State.commit, State.setFlags, signFlagOf_eq_msb] <;> rfl

/-- `fits_W` bounds the exact result by the 32-bit signed range (R10). -/
theorem fitsWord_iff (n : Int) : fitsWord n = true ↔ Fits n := by
  simp only [fitsWord, Bool.and_eq_true, decide_eq_true_eq, Fits]
  omega

/-- Under `OVF = wrap`, or where the exact result fits, the ALU answers the wrapped result (R113). -/
theorem orOverflow_chk_of_fits {ovf : OverflowMode} {n : Int} (h : ovf = .wrap ∨ Fits n) :
    orOverflow (chk ovf n) = .ok (wrapWord n) := by
  have hno : ¬(ovf = .fault ∧ fitsWord n = false) := by
    rintro ⟨rfl, hfit⟩
    have hFits := h.resolve_left OverflowMode.noConfusion
    rw [(fitsWord_iff n).2 hFits] at hfit
    cases hfit
  rw [chk_cases, if_neg hno]
  rfl

/-- Under `OVF = fault` an exact result that does not fit raises `Overflow` (R113, R211). -/
theorem orOverflow_chk_of_not_fits {ovf : OverflowMode} {n : Int} (hovf : ovf = .fault) (h : ¬Fits n) :
    orOverflow (chk ovf n) = .error overflowError := by
  have hfit : fitsWord n = false := Bool.eq_false_iff.2 (mt (fitsWord_iff n).1 h)
  rw [chk_cases, if_pos ⟨hovf, hfit⟩]
  rfl

/-! ## The difference of two words -/

/-- The wrapped exact difference is the difference of the words (R10, R112). -/
theorem wrapWord_sub (a b : Word) : wrapWord (a.toInt - b.toInt) = a - b := by
  apply BitVec.eq_of_toInt_eq
  rw [wrapWord, BitVec.toInt_ofInt, BitVec.toInt_sub]

/-- A difference that fits is not changed by wrapping (R10). -/
theorem toInt_sub_of_fits {a b : Word} (h : Fits (a.toInt - b.toInt)) : (a - b).toInt = a.toInt - b.toInt := by
  obtain ⟨hlo, hhi⟩ := h
  rw [← wrapWord_sub]
  exact BitVec.toInt_ofInt_eq_self (by decide) (by omega) (by omega)

/-- The sign bit of a difference that fits says which operand is smaller (R140). -/
theorem msb_sub_iff_of_fits {a b : Word} (h : Fits (a.toInt - b.toInt)) : (a - b).msb = true ↔ a.toInt < b.toInt := by
  rw [BitVec.msb_eq_toInt, decide_eq_true_iff, toInt_sub_of_fits h]
  omega

/-! ## The comparison form on two operands -/

section CompareTwo

variable {s : State} {a b : Src} {va vb : Word} {f : Word → Word → Except Raised Word}

/-- A bad operand 0 decides the error (R208). -/
theorem compareTwo_of_bad_first (ha : srcValue s a = none) : compareTwo s (.two a b) f = .error (operandError 0) := by
  simp only [compareTwo, resolveTwo, (resolve_eq_operandError_iff s 0 a).2 ha]

/-- After an operand 0 with a value, a bad operand 1 fails (R208). -/
theorem compareTwo_of_bad_second (ha : srcValue s a = some va) (hb : srcValue s b = none) :
    compareTwo s (.two a b) f = .error (operandError 1) := by
  simp only [compareTwo, resolveTwo, (resolve_ok_iff_srcValue s 0 a va).2 ha, (resolve_eq_operandError_iff s 1 b).2 hb]

/-- Operands with values resolve together (R104). -/
theorem resolveTwo_of_values (ha : srcValue s a = some va) (hb : srcValue s b = some vb) :
    resolveTwo s a b = .ok (va, vb) :=
  (resolveTwo_ok_iff s a b va vb).2 ⟨(resolve_ok_iff_srcValue ..).2 ha, (resolve_ok_iff_srcValue ..).2 hb⟩

/-- An ALU result of the values is the recent result, and nothing is written (42_comparison.md). -/
theorem compareTwo_of_result {r : Word} (ha : srcValue s a = some va) (hb : srcValue s b = some vb)
    (hf : f va vb = .ok r) : compareTwo s (.two a b) f = .ok { res := r, wr := none, tgt := none } := by
  simp only [compareTwo, resolveTwo_of_values ha hb, hf]

/-- An ALU error of the values is raised. -/
theorem compareTwo_of_raised {e : Raised} (ha : srcValue s a = some va) (hb : srcValue s b = some vb)
    (hf : f va vb = .error e) : compareTwo s (.two a b) f = .error e := by
  simp only [compareTwo, resolveTwo_of_values ha hb, hf]

end CompareTwo

/-- An instruction of the comparison form has the errors of that form, in order (R103, R208). -/
theorem compareErrors_of_compareTwo {mk : Operands Src → Instr} {f : State → Word → Word → Except Raised Word}
    (h : ∀ s ops, handlerOf (mk ops) s = compareTwo s ops (f s)) : CompareErrors mk := by
  refine fun s ops => ⟨fun hcount => exec_of_handlerOf_error ((h s ops).trans (compareTwo_of_count hcount)), ?_⟩
  rintro a b rfl
  refine ⟨fun ha => exec_of_handlerOf_error ((h s _).trans (compareTwo_of_bad_first ha)), fun ha hb => ?_⟩
  obtain ⟨va, ha⟩ := Option.ne_none_iff_exists'.1 ha
  exact exec_of_handlerOf_error ((h s _).trans (compareTwo_of_bad_second ha hb))

/-! ## `cmp` and `test` as uses of the form -/

/-- The handler of `cmp` compares by the checked difference (R140). -/
theorem handlerOf_cmp (s : State) (ops : Operands Src) :
    handlerOf (.cmp ops) s = compareTwo s ops fun a b => orOverflow (aluSub s.params.ovf a b) := rfl

/-- The handler of `test` compares by the bitwise AND (R141). -/
theorem handlerOf_test (s : State) (ops : Operands Src) :
    handlerOf (.test ops) s = compareTwo s ops fun a b => .ok (aluAnd a b) := rfl

section Cmp

variable {s t : State} {a b : Src} {va vb : Word}

/-- Without overflow `cmp` completes with the difference as recent result (R140). -/
theorem exec_cmp_of_fits (ha : srcValue s a = some va) (hb : srcValue s b = some vb)
    (h : s.params.ovf = .wrap ∨ Fits (va.toInt - vb.toInt)) :
    exec (.cmp (.two a b)) s = .next (completed s s.x (va - vb) (s.pc + 1#32)) := by
  have hsub : orOverflow (aluSub s.params.ovf va vb) = .ok (va - vb) := by
    rw [aluSub, orOverflow_chk_of_fits h, wrapWord_sub]
  rw [exec_of_handlerOf_ok ((handlerOf_cmp s _).trans (compareTwo_of_result ha hb hsub)), State.commit_eq_completed]
  rfl

/-- Under `OVF = fault` a `cmp` whose difference does not fit raises `Overflow` (R140, R211). -/
theorem exec_cmp_of_not_fits (ha : srcValue s a = some va) (hb : srcValue s b = some vb) (hovf : s.params.ovf = .fault)
    (h : ¬Fits (va.toInt - vb.toInt)) : exec (.cmp (.two a b)) s = .next (faulted s .overflow none) :=
  exec_of_handlerOf_error <|
    (handlerOf_cmp s _).trans (compareTwo_of_raised ha hb (orOverflow_chk_of_not_fits hovf h))

/-- A `cmp` that completes has the difference as recent result, whether or not it fits (R140). -/
theorem eq_completed_of_exec_cmp (ha : srcValue s a = some va) (hb : srcValue s b = some vb)
    (hexec : exec (.cmp (.two a b)) s = .next t) (hrun : t.hs = .run) :
    t = completed s s.x (va - vb) (s.pc + 1#32) := by
  by_cases h : s.params.ovf = .wrap ∨ Fits (va.toInt - vb.toInt)
  · simpa using hexec.symm.trans (exec_cmp_of_fits ha hb h)
  · obtain ⟨hwrap, hfits⟩ := not_or.1 h
    have hovf : s.params.ovf = .fault := by
      cases hmode : s.params.ovf with
      | wrap => exact absurd hmode hwrap
      | fault => rfl
    obtain rfl : t = faulted s .overflow none := by
      simpa using hexec.symm.trans (exec_cmp_of_not_fits ha hb hovf hfits)
    exact nomatch hrun

end Cmp

end Sys2Proof.Machine

namespace Sys2Proof.Claims

open Sys2Proof.Machine

/-- Settles O38: the errors are those of the comparison form, and the overflow check decides between the two ends. -/
theorem cmpSetsFlagsFromTheDifference : Obligations.CmpSetsFlagsFromTheDifference :=
  ⟨Laws.OpcodeField.cmp, compareErrors_of_compareTwo handlerOf_cmp,
    fun _ _ _ _ _ ha hb => ⟨exec_cmp_of_fits ha hb, exec_cmp_of_not_fits ha hb⟩⟩

/-- Settles O39: a completed `cmp` leaves the flags of the difference, which is 0 exactly for equal words and, where it
fits, negative exactly for a smaller operand 0. -/
theorem cmpFlagsSayTheOrder : Obligations.CmpFlagsSayTheOrder := by
  intro s t a b va vb _ ha hb hexec hrun
  obtain rfl := eq_completed_of_exec_cmp ha hb hexec hrun
  have hzero : (va - vb == 0#32) = true ↔ va = vb := by rw [beq_iff_eq, BitVec.sub_eq_iff_eq_add, BitVec.zero_add]
  exact ⟨hzero, msb_sub_iff_of_fits⟩

/-- Settles O40: the errors are those of the comparison form, and the AND never overflows. -/
theorem testSetsFlagsFromTheAnd : Obligations.TestSetsFlagsFromTheAnd := by
  refine ⟨Laws.OpcodeField.test, compareErrors_of_compareTwo handlerOf_test, fun s a b va vb ha hb => ?_⟩
  rw [exec_of_handlerOf_ok ((handlerOf_test s _).trans (compareTwo_of_result ha hb rfl)), State.commit_eq_completed]
  rfl

end Sys2Proof.Claims
end

section
/-! PROOFS. The statements of 43_arith_logic.md. The two- or three-operand form has one fact per way it can go, said of the
parts the statements name (`aluParts`); from these the whole rule of an instruction follows from what its ALU function
answers. `not` has a handler of its own. -/

namespace Sys2Proof.Machine

open Sys2Proof.Claims

/-! ## Wrapped exact results as word operations -/

/-- A word whose signed value is congruent to an exact result is that result wrapped (R10). -/
theorem wrapWord_eq_of_toInt {n : Int} {w : Word} (h : w.toInt = n.bmod (2 ^ 32)) : wrapWord n = w := by
  apply BitVec.eq_of_toInt_eq
  rw [wrapWord, BitVec.toInt_ofInt, h]

/-- The wrapped exact sum is the sum of the words (R10, R112). -/
theorem wrapWord_add (a b : Word) : wrapWord (a.toInt + b.toInt) = a + b :=
  wrapWord_eq_of_toInt (BitVec.toInt_add a b)

/-- The wrapped exact product is the product of the words (R10, R112). -/
theorem wrapWord_mul (a b : Word) : wrapWord (a.toInt * b.toInt) = a * b :=
  wrapWord_eq_of_toInt (BitVec.toInt_mul a b)

/-- The wrapped quotient rounded toward zero is the signed quotient of the words, that of `-2^31` by `-1` too (R112). -/
theorem wrapWord_tdiv (a b : Word) : wrapWord (a.toInt.tdiv b.toInt) = a.sdiv b :=
  wrapWord_eq_of_toInt (BitVec.toInt_sdiv a b)

/-! ## The two- or three-operand form on its parts -/

section TwoOrThree

variable {s : State} {ops : Operands Src} {k : OperandIndex} {d : RegIndex} {c a b : Src} {va vb : Word}
  {f : Word → Word → Except Raised Word}

/-- An operand count without parts fails (R103, R106). -/
theorem twoOrThree_of_no_parts (h : aluParts ops = none) : twoOrThree s ops f = .error arityError := by
  cases ops with
  | zero | one | fourPlus => rfl
  | two | three => cases h

/-- With parts the form is the handler into the destination among them (R106). -/
theorem twoOrThree_of_parts (h : aluParts ops = some (k, c, a, b)) : twoOrThree s ops f = intoDest s k c a b f := by
  cases ops with
  | zero | one | fourPlus => cases h
  | two | three =>
    cases h
    rfl

/-- A destination that is no register fails first, whatever the sources (R106, R208). -/
theorem intoDest_of_not_reg (h : ∀ d, c ≠ .reg d) : intoDest s k c a b f = .error (operandError k) := by
  simp only [intoDest, (needReg_error_iff k c _).2 ⟨h, rfl⟩]

/-- With a register destination a bad source 0 decides the error (R208). -/
theorem intoDest_of_bad_first (ha : srcValue s a = none) :
    intoDest s k (.reg d) a b f = .error (operandError 0) := by
  simp only [intoDest, needReg_reg, resolveTwo, (resolve_eq_operandError_iff s 0 a).2 ha]

/-- After a source 0 with a value, a bad source 1 fails (R208). -/
theorem intoDest_of_bad_second (ha : srcValue s a = some va) (hb : srcValue s b = none) :
    intoDest s k (.reg d) a b f = .error (operandError 1) := by
  simp only [intoDest, needReg_reg, resolveTwo, (resolve_ok_iff_srcValue s 0 a va).2 ha,
    (resolve_eq_operandError_iff s 1 b).2 hb]

/-- An ALU result of the values is the recent result and is written to the destination (R106). -/
theorem intoDest_of_result {r : Word} (ha : srcValue s a = some va) (hb : srcValue s b = some vb)
    (hf : f va vb = .ok r) : intoDest s k (.reg d) a b f = .ok { res := r, wr := some (d, r), tgt := none } := by
  simp only [intoDest, needReg_reg, resolveTwo_of_values ha hb, hf]

/-- An ALU error of the values is raised. -/
theorem intoDest_of_raised {e : Raised} (ha : srcValue s a = some va) (hb : srcValue s b = some vb)
    (hf : f va vb = .error e) : intoDest s k (.reg d) a b f = .error e := by
  simp only [intoDest, needReg_reg, resolveTwo_of_values ha hb, hf]

/-! ## An instruction of that form -/

variable {i : Instr}

/-- Where the ALU answers a word, the instruction completes with it in the destination and in the flags (R106 to R109). -/
theorem exec_of_twoOrThree_result {r : Word} (hi : handlerOf i s = twoOrThree s ops f)
    (hparts : aluParts ops = some (k, .reg d, a, b)) (ha : srcValue s a = some va) (hb : srcValue s b = some vb)
    (hf : f va vb = .ok r) : exec i s = .next (completed s (s.x.set d r) r (s.pc + 1#32)) := by
  have hok : handlerOf i s = .ok { res := r, wr := some (d, r), tgt := none } :=
    hi.trans ((twoOrThree_of_parts hparts).trans (intoDest_of_result ha hb hf))
  rw [exec_of_handlerOf_ok hok, State.commit_eq_completed, State.applyWrite_some, State.setReg_x, nextPc_none]

/-- Where the ALU raises an error, the instruction writes the halt state alone (R209). -/
theorem exec_of_twoOrThree_raised {e : Raised} (hi : handlerOf i s = twoOrThree s ops f)
    (hparts : aluParts ops = some (k, .reg d, a, b)) (ha : srcValue s a = some va) (hb : srcValue s b = some vb)
    (hf : f va vb = .error e) : exec i s = .next (faulted s e.kind e.opnd) :=
  exec_of_handlerOf_error (hi.trans ((twoOrThree_of_parts hparts).trans (intoDest_of_raised ha hb hf)))

end TwoOrThree

/-- An instruction of the two- or three-operand form has the errors of that form, in order (R103, R106, R208). -/
theorem aluErrors_of_twoOrThree {mk : Operands Src → Instr} {f : State → Word → Word → Except Raised Word}
    (hmk : ∀ s ops, handlerOf (mk ops) s = twoOrThree s ops (f s)) : AluErrors mk := by
  refine fun s ops => ⟨fun hnone => exec_of_handlerOf_error ((hmk s ops).trans (twoOrThree_of_no_parts hnone)), ?_⟩
  intro k c a b hparts
  have hinto : handlerOf (mk ops) s = intoDest s k c a b (f s) := (hmk s ops).trans (twoOrThree_of_parts hparts)
  refine ⟨fun hc => exec_of_handlerOf_error (hinto.trans (intoDest_of_not_reg hc)), ?_⟩
  rintro d rfl
  refine ⟨fun ha => exec_of_handlerOf_error (hinto.trans (intoDest_of_bad_first ha)), fun ha hb => ?_⟩
  obtain ⟨va, ha⟩ := Option.ne_none_iff_exists'.1 ha
  exact exec_of_handlerOf_error (hinto.trans (intoDest_of_bad_second ha hb))

/-- An instruction whose ALU function checks an exact result has the whole rule, for the word operation that the wrapped
exact result is (R112, R113). -/
theorem overflowingRule_of_chk {mk : Operands Src → Instr} {opc : BitVec 5} {exact : Int → Int → Int}
    {word : Word → Word → Word} (hopc : ∀ ops, opcField (encode (mk ops)) = opc)
    (hmk : ∀ s ops, handlerOf (mk ops) s =
      twoOrThree s ops fun a b => orOverflow (chk s.params.ovf (exact a.toInt b.toInt)))
    (hword : ∀ a b : Word, wrapWord (exact a.toInt b.toInt) = word a b) : OverflowingRule mk opc exact word := by
  refine ⟨hopc, aluErrors_of_twoOrThree hmk, fun s ops k d a b va vb hparts ha hb => ⟨fun hfits => ?_, ?_⟩⟩
  · rw [← hword va vb]
    exact exec_of_twoOrThree_result (hmk s ops) hparts ha hb (orOverflow_chk_of_fits hfits)
  · intro hovf hfits
    exact exec_of_twoOrThree_raised (hmk s ops) hparts ha hb (orOverflow_chk_of_not_fits hovf hfits)

/-- An instruction whose ALU function always answers a word has the whole rule without overflow (R112). -/
theorem bitwiseRule_of_ok {mk : Operands Src → Instr} {opc : BitVec 5} {word : Word → Word → Word}
    (hopc : ∀ ops, opcField (encode (mk ops)) = opc)
    (hmk : ∀ s ops, handlerOf (mk ops) s = twoOrThree s ops fun a b => .ok (word a b)) : BitwiseRule mk opc word :=
  ⟨hopc, aluErrors_of_twoOrThree hmk,
    fun s ops _ _ _ _ _ _ hparts ha hb => exec_of_twoOrThree_result (hmk s ops) hparts ha hb rfl⟩

/-! ## `div` and `not` -/

/-- The ALU function of `div`: a zero divisor is an error before the quotient is formed (R153, R208). -/
def divOrRaise (ovf : OverflowMode) (a b : Word) : Except Raised Word :=
  if b = 0#32 then .error divideByZero else orOverflow (aluDiv ovf a b)

/-- The handler of `div` is the two- or three-operand form with that function (R153). -/
theorem handlerOf_div (s : State) (ops : Operands Src) :
    handlerOf (.div ops) s = twoOrThree s ops (divOrRaise s.params.ovf) := rfl

/-- A zero divisor raises `DivideByZero(1)`, whatever the overflow mode (R153, R204). -/
theorem divOrRaise_of_zero {ovf : OverflowMode} {a b : Word} (hb : b = 0#32) :
    divOrRaise ovf a b = .error divideByZero := if_pos hb

/-- With another divisor the quotient is rounded toward zero, if it fits or wraps (R153). -/
theorem divOrRaise_of_fits {ovf : OverflowMode} {a b : Word} (hb : b ≠ 0#32)
    (h : ovf = .wrap ∨ Fits (a.toInt.tdiv b.toInt)) : divOrRaise ovf a b = .ok (a.sdiv b) := by
  rw [divOrRaise, if_neg hb, aluDiv, orOverflow_chk_of_fits h, wrapWord_tdiv]

/-- With another divisor a quotient that does not fit raises `Overflow` under `OVF = fault` (R153, R211). -/
theorem divOrRaise_of_not_fits {ovf : OverflowMode} {a b : Word} (hb : b ≠ 0#32) (hovf : ovf = .fault)
    (h : ¬Fits (a.toInt.tdiv b.toInt)) : divOrRaise ovf a b = .error overflowError := by
  rw [divOrRaise, if_neg hb, aluDiv, orOverflow_chk_of_not_fits hovf h]

/-- An operand of `not` that is no register fails (R157). -/
theorem handlerOf_not_of_not_reg {s : State} {a : Src} (h : ∀ d, a ≠ .reg d) :
    handlerOf (.not (.one a)) s = .error (operandError 0) := by
  simp only [handlerOf, handleNot, (needReg_error_iff 0 a _).2 ⟨h, rfl⟩]

/-- `not` writes the logical negation of its register to that register (R157). -/
theorem handlerOf_not_reg (s : State) (d : RegIndex) :
    handlerOf (.not (.one (.reg d))) s =
      .ok { res := aluLnot s.x[d], wr := some (d, aluLnot s.x[d]), tgt := none } := rfl

/-- Committing a register write with recent result 1 clears both flags (R108, R109). -/
theorem State.commit_write_of_one (s : State) (d : RegIndex) (v : Word) :
    s.commit { res := 1#32, wr := some (d, v), tgt := none } =
      { s with x := s.x.set d v, zf := false, sf := false, pc := s.pc + 1#32 } := by
  have hzf : (1#32 == 0#32) = false := by decide
  have hsf : (1#32).msb = false := by decide
  rw [State.commit_eq_completed, completed, hzf, hsf, nextPc_none, State.applyWrite_some, State.setReg_x]

/-- The logical negation of zero is 1 (R112). -/
theorem aluLnot_of_zero {a : Word} (h : a = 0#32) : aluLnot a = 1#32 := if_pos h

/-- The logical negation of any other word is 0 (R112). -/
theorem aluLnot_of_ne_zero {a : Word} (h : a ≠ 0#32) : aluLnot a = 0#32 := if_neg h

end Sys2Proof.Machine

namespace Sys2Proof.Claims

open Sys2Proof.Machine

/-- Settles O41: `add` checks the exact sum, which wraps to the sum of the words. -/
theorem addWritesTheSum : Obligations.AddWritesTheSum :=
  overflowingRule_of_chk Laws.OpcodeField.add (fun _ _ => rfl) wrapWord_add

/-- Settles O42: `sub` checks the exact difference, which wraps to the difference of the words. -/
theorem subWritesTheDifference : Obligations.SubWritesTheDifference :=
  overflowingRule_of_chk Laws.OpcodeField.sub (fun _ _ => rfl) wrapWord_sub

/-- Settles O43: `mul` checks the exact product, which wraps to the product of the words. -/
theorem mulWritesTheProduct : Obligations.MulWritesTheProduct :=
  overflowingRule_of_chk Laws.OpcodeField.mul (fun _ _ => rfl) wrapWord_mul

/-- Settles O44: the errors are those of the form, and one fact about the ALU function of `div` per clause. -/
theorem divWritesTheQuotient : Obligations.DivWritesTheQuotient := by
  refine ⟨Laws.OpcodeField.div, aluErrors_of_twoOrThree handlerOf_div, ?_⟩
  intro s ops k d a b va vb hparts ha hb
  refine ⟨fun hzero => ?_, fun hne hfits => ?_, fun hne hovf hfits => ?_⟩
  · exact exec_of_twoOrThree_raised (handlerOf_div s ops) hparts ha hb (divOrRaise_of_zero hzero)
  · exact exec_of_twoOrThree_result (handlerOf_div s ops) hparts ha hb (divOrRaise_of_fits hne hfits)
  · exact exec_of_twoOrThree_raised (handlerOf_div s ops) hparts ha hb (divOrRaise_of_not_fits hne hovf hfits)

/-- Settles O45: the ALU function of `and` always answers the bitwise AND. -/
theorem andWritesTheBitwiseAnd : Obligations.AndWritesTheBitwiseAnd :=
  bitwiseRule_of_ok Laws.OpcodeField.and fun _ _ => rfl

/-- Settles O46: the ALU function of `or` always answers the bitwise OR. -/
theorem orWritesTheBitwiseOr : Obligations.OrWritesTheBitwiseOr :=
  bitwiseRule_of_ok Laws.OpcodeField.or fun _ _ => rfl

/-- Settles O47: the ALU function of `xor` always answers the bitwise exclusive OR. -/
theorem xorWritesTheBitwiseXor : Obligations.XorWritesTheBitwiseXor :=
  bitwiseRule_of_ok Laws.OpcodeField.xor fun _ _ => rfl

/-- Settles O48: one fact about the handler of `not` per error; else the register gets 1, which clears both flags, or 0,
which sets `ZF`. -/
theorem notNegatesLogically : Obligations.NotNegatesLogically := by
  refine ⟨Laws.OpcodeField.not, fun s => ⟨fun ops hcount => wrongOperandCountIsArityError _ s hcount,
    fun a ha => exec_of_handlerOf_error (handlerOf_not_of_not_reg ha), fun d => ⟨fun hzero => ?_, fun hne => ?_⟩⟩⟩
  · rw [exec_of_handlerOf_ok (handlerOf_not_reg s d), aluLnot_of_zero hzero, State.commit_write_of_one]
  · rw [exec_of_handlerOf_ok (handlerOf_not_reg s d), aluLnot_of_ne_zero hne, State.commit_write_of_zero]

end Sys2Proof.Claims
end

section
/-! PROOFS. The statements of 44_control_transfer.md. The control-transfer form looks up its label, then jumps or not, and
reports a recent result of 1 or 0; each jump is that form with a condition and a report of its own. -/

namespace Sys2Proof.Machine

open Sys2Proof.Claims

/-! ## The control-transfer form on one operand -/

/-- An undefined label fails, taken or not (R176). -/
theorem jumpWhen_undefined (taken : Bool) (res : Word) :
    jumpWhen taken res (.one .undefined) = .error unknownLabel := rfl

/-- With a defined label the form writes no register, and has a target exactly where it is taken (R176). -/
theorem jumpWhen_label (taken : Bool) (res v : Word) :
    jumpWhen taken res (.one (.label v)) =
      .ok { res := res, wr := none, tgt := if taken then some v else none } := rfl

/-- Committing a reported 1 clears both flags, a reported 0 sets `ZF` and clears `SF` (R109, R178). -/
theorem State.commit_takenResult (s : State) (report : Bool) (tgt : Option Word) :
    s.commit { res := takenResult report, wr := none, tgt := tgt } =
      { s with zf := !report, sf := false, pc := nextPc s.pc tgt } := by
  have hzf : (takenResult report == 0#32) = !report := by cases report <;> rfl
  have hsf : (takenResult report).msb = false := by cases report <;> rfl
  rw [State.commit_eq_completed, completed, hzf, hsf]
  rfl

/-! ## An instruction of that form -/

section Jump

variable {mk : Operands Target → Instr} {taken report : State → Bool}
  (hmk : ∀ s ops, handlerOf (mk ops) s = jumpWhen (taken s) (takenResult (report s)) ops)

include hmk

/-- An instruction of the control-transfer form has the errors of that form, whatever the flags (R103, R176). -/
theorem jumpErrors_of_jumpWhen {opc : BitVec 5} (hopc : ∀ ops, opcField (encode (mk ops)) = opc) : JumpErrors mk opc :=
  ⟨hopc, fun s => ⟨fun ops hcount => exec_of_handlerOf_error ((hmk s ops).trans (jumpWhen_of_count hcount)),
    exec_of_handlerOf_error ((hmk s _).trans (jumpWhen_undefined _ _))⟩⟩

/-- Where it is taken, execution goes on one past the label's value, whatever it reports (R110, R176). -/
theorem exec_jump_of_taken {s : State} (h : taken s = true) (v : Word) :
    exec (mk (.one (.label v))) s = .next (jumped s (!report s) v) := by
  rw [exec_of_handlerOf_ok ((hmk s _).trans (jumpWhen_label _ _ v)), State.commit_takenResult, h, if_pos rfl,
    nextPc_some, jumped]

/-- Where it is not taken and reports so, execution goes on at `pc + 1` with `ZF` set (R110, R178). -/
theorem exec_jump_of_not_taken {s : State} (h : taken s = false) (hreport : report s = false) (v : Word) :
    exec (mk (.one (.label v))) s = .next (notJumped s) := by
  rw [exec_of_handlerOf_ok ((hmk s _).trans (jumpWhen_label _ _ v)), State.commit_takenResult, h, hreport,
    if_neg Bool.false_ne_true, nextPc_none, notJumped, Bool.not_false]

end Jump

/-- A conditional jump that reports whether it was taken jumps exactly where its condition on the flags holds (R178). -/
theorem jumpsWhen_of_jumpWhen {mk : Operands Target → Instr} {cond : Bool → Bool → Bool}
    (hmk : ∀ s ops, handlerOf (mk ops) s = jumpWhen (cond s.zf s.sf) (takenResult (cond s.zf s.sf)) ops) :
    JumpsWhen mk cond := by
  refine fun s v => ⟨fun h => ?_, fun h => exec_jump_of_not_taken hmk h h v⟩
  rw [exec_jump_of_taken hmk h, h, Bool.not_true]

/-! ## The handlers of the six jumps as uses of the form -/

/-- `jmp` is always taken and reports so (R170). -/
theorem handlerOf_jmp (s : State) (ops : Operands Target) :
    handlerOf (.jmp ops) s = jumpWhen true (takenResult true) ops := rfl

/-- `je` tests `ZF` false (R171). -/
theorem handlerOf_je (s : State) (ops : Operands Target) :
    handlerOf (.je ops) s = jumpWhen (!s.zf) (takenResult (!s.zf)) ops := rfl

/-- `jl` tests `SF` true and `ZF` false (R172). -/
theorem handlerOf_jl (s : State) (ops : Operands Target) :
    handlerOf (.jl ops) s = jumpWhen (s.sf && !s.zf) (takenResult (s.sf && !s.zf)) ops := rfl

/-- `jle` tests both flags true (R173). -/
theorem handlerOf_jle (s : State) (ops : Operands Target) :
    handlerOf (.jle ops) s = jumpWhen (s.sf && s.zf) (takenResult (s.sf && s.zf)) ops := rfl

/-- `jg` reports "not jumped" even where it jumps (R174). -/
theorem handlerOf_jg (s : State) (ops : Operands Target) :
    handlerOf (.jg ops) s = jumpWhen (jgTaken s) (takenResult false) ops := rfl

/-- `jge` tests `SF` false and `ZF` true (R175). -/
theorem handlerOf_jge (s : State) (ops : Operands Target) :
    handlerOf (.jge ops) s = jumpWhen (!s.sf && s.zf) (takenResult (!s.sf && s.zf)) ops := rfl

/-- `jg` is taken exactly where both flags are false (R174). -/
theorem jgTaken_iff (s : State) : jgTaken s = true ↔ s.zf = false ∧ s.sf = false := by
  rw [jgTaken, Bool.and_eq_true, Bool.not_eq_true', Bool.not_eq_true', and_comm]

end Sys2Proof.Machine

namespace Sys2Proof.Claims

open Sys2Proof.Machine

/-- Settles O49: `jmp` is the form that is always taken. -/
theorem jmpAlwaysJumps : Obligations.JmpAlwaysJumps :=
  ⟨jumpErrors_of_jumpWhen handlerOf_jmp Laws.OpcodeField.jmp, fun _ v => exec_jump_of_taken handlerOf_jmp rfl v⟩

/-- Settles O50: `je` is the form that reports its condition, `ZF` false. -/
theorem jeJumpsWhenZeroFlagFalse : Obligations.JeJumpsWhenZeroFlagFalse :=
  ⟨jumpErrors_of_jumpWhen handlerOf_je Laws.OpcodeField.je, jumpsWhen_of_jumpWhen handlerOf_je⟩

/-- Settles O51: `jl` is the form that reports its condition, `SF` true and `ZF` false. -/
theorem jlJumpsWhenSignOnly : Obligations.JlJumpsWhenSignOnly :=
  ⟨jumpErrors_of_jumpWhen handlerOf_jl Laws.OpcodeField.jl, jumpsWhen_of_jumpWhen handlerOf_jl⟩

/-- Settles O52: `jle` is the form that reports its condition, both flags true. -/
theorem jleJumpsWhenBothFlags : Obligations.JleJumpsWhenBothFlags :=
  ⟨jumpErrors_of_jumpWhen handlerOf_jle Laws.OpcodeField.jle, jumpsWhen_of_jumpWhen handlerOf_jle⟩

/-- Settles O53: the condition of `jg` decides where it goes on, and its report of "not jumped" decides the flags. -/
theorem jgJumpsWhenNeitherFlag : Obligations.JgJumpsWhenNeitherFlag := by
  refine ⟨jumpErrors_of_jumpWhen handlerOf_jg Laws.OpcodeField.jg, fun s v => ⟨fun h => ?_, fun h => ?_⟩⟩
  · exact exec_jump_of_taken handlerOf_jg ((jgTaken_iff s).2 h) v
  · exact exec_jump_of_not_taken handlerOf_jg (Bool.eq_false_iff.2 (mt (jgTaken_iff s).1 h)) rfl v

/-- Settles O54: `jge` is the form that reports its condition, `SF` false and `ZF` true. -/
theorem jgeJumpsWhenZeroOnly : Obligations.JgeJumpsWhenZeroOnly :=
  ⟨jumpErrors_of_jumpWhen handlerOf_jge Laws.OpcodeField.jge, jumpsWhen_of_jumpWhen handlerOf_jge⟩

end Sys2Proof.Claims
end

section
/-! PROOFS. The statements of 60_exceptions.md. What a handler raises is said once per handler form: `ArityError` is open to
every instruction, and each other kind to those whose form and ALU function can raise it (R201). -/

namespace Sys2Proof.Machine

open Sys2Proof.Claims

/-! ## Who raises which kind -/

/-- The instructions of `OPC` 0 to 10 can raise `OperandError` (R76, R201). -/
theorem raisedBy_operandError {i : Instr} {ops : Operands Src} (h : srcInstr i.opc.toNat ops = some i) :
    raisedBy .operandError i := by
  obtain ⟨-, hle, -⟩ := srcInstr_some h
  exact hle

/-- The instructions of `OPC` 11 to 16 can raise `UnknownLabel` (R76, R201). -/
theorem raisedBy_unknownLabel {i : Instr} {ops : Operands Target} (h : jumpInstr i.opc.toNat ops = some i) :
    raisedBy .unknownLabel i := by
  obtain ⟨-, ⟨hge, -⟩, -⟩ := jumpInstr_some h
  exact hge

/-- An instruction that may raise `OperandError` may raise every error of `mov` and `not` (R202, R203). -/
theorem raisedBy_of_operands {i : Instr} {e : Raised} (hi : raisedBy .operandError i)
    (h : e = arityError ∨ ∃ k, e = operandError k) : raisedBy e.kind i := by
  rcases h with rfl | ⟨k, rfl⟩
  · exact trivial
  · exact hi

/-- It may raise every error of a form with an ALU function if it may raise those of that function. -/
theorem raisedBy_of_form {i : Instr} {e : Raised} {f : Word → Word → Except Raised Word} (hi : raisedBy .operandError i)
    (h : e = arityError ∨ (∃ k, e = operandError k) ∨ ∃ va vb, f va vb = .error e)
    (hf : ∀ va vb, f va vb = .error e → raisedBy e.kind i) : raisedBy e.kind i := by
  rcases h with h | h | ⟨va, vb, h⟩
  · exact raisedBy_of_operands hi (.inl h)
  · exact raisedBy_of_operands hi (.inr h)
  · exact hf va vb h

/-- An ALU result that does not fit raises nothing but `Overflow` (R113, R211). -/
theorem raisedBy_of_chk {i : Instr} {e : Raised} {ovf : OverflowMode} {n : Int} (hi : raisedBy .overflow i)
    (h : orOverflow (chk ovf n) = .error e) : raisedBy e.kind i := by
  obtain ⟨rfl, -⟩ := orOverflow_chk_error h
  exact hi

/-- `div` raises `DivideByZero` or `Overflow` from its ALU function (R153, R204, R211). -/
theorem divOrRaise_error {ovf : OverflowMode} {a b : Word} {e : Raised} (h : divOrRaise ovf a b = .error e) :
    e = divideByZero ∨ e = overflowError := by
  unfold divOrRaise at h
  split at h
  case isTrue => exact .inl (by simpa using h.symm)
  case isFalse => exact .inr (orOverflow_chk_error h).1

/-- An error a handler raises is of a kind R201 lists for its instruction. -/
theorem handlerOf_error_raisedBy {i : Instr} {s : State} {e : Raised} (h : handlerOf i s = .error e) :
    raisedBy e.kind i := by
  cases i with
  | mov ops => exact raisedBy_of_operands (raisedBy_operandError rfl) (handleMov_error h)
  | not ops => exact raisedBy_of_operands (raisedBy_operandError rfl) (handleNot_error h)
  | cmp ops =>
    exact raisedBy_of_form (raisedBy_operandError rfl) (compareTwo_error h) fun _ _ =>
      raisedBy_of_chk (by simp [raisedBy, Instr.opc])
  | add ops | sub ops | mul ops =>
    exact raisedBy_of_form (raisedBy_operandError rfl) (twoOrThree_error h) fun _ _ =>
      raisedBy_of_chk (by simp [raisedBy, Instr.opc])
  | div ops =>
    rw [handlerOf_div] at h
    refine raisedBy_of_form (raisedBy_operandError rfl) (twoOrThree_error h) fun _ _ hf => ?_
    rcases divOrRaise_error hf with rfl | rfl
    · exact rfl
    · simp [raisedBy, Instr.opc, overflowError]
  | test ops =>
    simp only [handlerOf] at h
    exact raisedBy_of_form (raisedBy_operandError rfl) (compareTwo_error h) fun _ _ hf => nomatch hf
  | and ops | or ops | xor ops =>
    simp only [handlerOf] at h
    exact raisedBy_of_form (raisedBy_operandError rfl) (twoOrThree_error h) fun _ _ hf => nomatch hf
  | jmp ops | je ops | jl ops | jle ops | jg ops | jge ops =>
    rcases jumpWhen_error _ _ _ _ h with ⟨_, rfl⟩ | ⟨_, rfl⟩
    · exact trivial
    · exact raisedBy_unknownLabel rfl

/-! ## Where a fault comes from -/

/-- A step of a running core that ends faulted has taken a fatal error (R209). -/
theorem step_faulted_raise {s t : State} (h : step s = .next t) (ht : t.hs ≠ .run) : ∃ e, t = s.raise e := by
  obtain ⟨hrun, -⟩ := step_next_cases s t h
  rcases step_next_commit_or_raise h with ⟨r, rfl⟩ | he
  · exact absurd ((s.commit_hs r).trans hrun) ht
  · exact he

/-- An instruction of a running core that ends faulted has taken the error its handler raised (R115, R209). -/
theorem exec_faulted_handlerOf {i : Instr} {s t : State} (hs : s.hs = .run) (h : exec i s = .next t) (ht : t.hs ≠ .run) :
    ∃ e, handlerOf i s = .error e ∧ t = s.raise e := by
  rcases exec_next_handlerOf h with ⟨r, -, rfl⟩ | he
  · exact absurd ((s.commit_hs r).trans hs) ht
  · exact he

/-- A started core runs, or is faulted by a duplicate label (R205, R230, R233). -/
theorem hs_of_boot_started {p : Params} {lines : List Text} {s : State} (h : boot p lines = .started s) :
    s.hs = .run ∨ s.hs = .fault .duplicateLabel 0#32 none := by
  by_cases hgrammar : LabelsKeepTheGrammar lines
  case neg => simp [boot_of_badLabelLine p hgrammar] at h
  rcases lt_or_ge maxInstructions (instrCount lines) with hlong | hlen
  · simp [boot_of_tooLong p hgrammar hlong] at h
  by_cases hdistinct : LabelsAreDistinct lines
  case pos =>
    obtain rfl := Booted.started.inj ((boot_of_distinct p hgrammar hlen hdistinct).symm.trans h)
    exact .inl rfl
  case neg =>
    obtain rfl := Booted.started.inj ((boot_of_duplicateLabel p hgrammar hlen hdistinct).symm.trans h)
    exact .inr rfl

end Sys2Proof.Machine

namespace Sys2Proof.Claims

open Sys2Proof.Machine

/-- Settles O25: a step that ends faulted has raised, and raising writes the halt state alone. -/
theorem fatalErrorsArePrecise : Obligations.FatalErrorsArePrecise := by
  intro s t h ht
  obtain ⟨e, rfl⟩ := step_faulted_raise h ht
  exact ⟨e.kind, e.opnd, rfl⟩

/-- Settles O26: the codes are read off their table; the error recorded is the one the handler raised, of a kind and shape
its instruction can raise; a boot faults on a duplicate label alone. -/
theorem errorKindsFollowTheTable : Obligations.ErrorKindsFollowTheTable := by
  refine ⟨⟨rfl, rfl⟩, fun i s t k p o hs hexec ht => ?_, fun p lines s k f o hboot hs => ?_⟩
  · obtain ⟨e, he, rfl⟩ := exec_faulted_handlerOf hs hexec (by simp [ht])
    obtain ⟨rfl, -, rfl⟩ := Halt.fault.inj ht
    exact ⟨handlerOf_error_raisedBy he, handlerOf_error_faultShape he⟩
  · rcases hs_of_boot_started hboot with hrun | hfault
    · exact nomatch hs.symm.trans hrun
    · obtain ⟨hk, -, ho⟩ := Halt.fault.inj (hs.symm.trans hfault)
      exact ⟨hk, ho⟩

end Sys2Proof.Claims
end

section
/-! PROOFS. The statements of 70_reset_and_hazards.md: what a started core is, where a label sends a jump, and what a jump
leaves in the flags for the next one. -/

namespace Sys2Proof.Machine

open Sys2Proof.Claims

/-! ## A started core -/

/-- A started core is the reset of a failed load or of a loaded program (R230, R233). -/
theorem boot_started_cases {p : Params} {lines : List Text} {s : State} (h : boot p lines = .started s) :
    (load p.sep lines = .duplicateLabel ∧ s = State.resetWith p [] [] (.fault .duplicateLabel 0#32 none)) ∨
      ∃ imem labels, load p.sep lines = .ok imem labels ∧ s = State.resetWith p imem labels .run := by
  unfold boot at h
  split at h
  case h_1 imem labels hload => exact .inr ⟨imem, labels, hload, (Booted.started.inj h).symm⟩
  case h_2 hload => exact .inl ⟨hload, (Booted.started.inj h).symm⟩
  case h_3 => cases h

/-- A core that starts in `RUN` holds the stores of a load that succeeded (R230). -/
theorem load_ok_of_boot_run {p : Params} {lines : List Text} {s : State} (h : boot p lines = .started s)
    (hs : s.hs = .run) : load p.sep lines = .ok s.imem s.labels := by
  rcases boot_started_cases h with ⟨-, rfl⟩ | ⟨imem, labels, hload, rfl⟩
  · cases hs
  · exact hload

/-! ## Where a label sends a jump -/

/-- One past the value of a label that follows `n` instructions is index `n`, for a label at the top too (R62, R237). -/
theorem ofInt_sub_one_add_one (n : Nat) : BitVec.ofInt 32 ((n : Int) - 1) + 1#32 = BitVec.ofNat 32 n := by
  have hone : 1#32 = BitVec.ofInt 32 1 := rfl
  rw [hone, ← BitVec.ofInt_add, Int.sub_add_cancel, BitVec.ofInt_natCast]

/-! ## What a jump leaves in the flags -/

/-- The form's recent result is the reported one, so a report of 1 or 0 leaves `SF` false (R109, R178). -/
theorem commit_sf_of_jumpWhen {s : State} {taken report : Bool} {ops : Operands Target} {r : Result}
    (h : jumpWhen taken (takenResult report) ops = .ok r) : (s.commit r).sf = false := by
  obtain ⟨v, -, rfl⟩ := jumpWhen_ok _ _ _ _ h
  rw [State.commit_takenResult]

/-- Every control-transfer instruction is its form, reporting 1 or 0 (R170 to R175, R178). -/
theorem handlerOf_jumpInstr {n : Nat} {ops : Operands Target} {i : Instr} (h : jumpInstr n ops = some i) (s : State) :
    ∃ taken report, handlerOf i s = jumpWhen taken (takenResult report) ops := by
  unfold jumpInstr at h
  split at h <;> cases h
  · exact ⟨_, _, handlerOf_jmp s ops⟩
  · exact ⟨_, _, handlerOf_je s ops⟩
  · exact ⟨_, _, handlerOf_jl s ops⟩
  · exact ⟨_, _, handlerOf_jle s ops⟩
  · exact ⟨_, _, handlerOf_jg s ops⟩
  · exact ⟨_, _, handlerOf_jge s ops⟩

/-- An instruction with an opcode number of 11 or more is a control-transfer instruction (R76). -/
theorem exists_jumpInstr_of_opc {i : Instr} (h : 11 ≤ i.opc.toNat) :
    ∃ ops, jumpInstr i.opc.toNat ops = some i := by
  refine i.eq_srcInstr_or_jumpInstr.resolve_left ?_
  rintro ⟨ops, hsrc⟩
  obtain ⟨-, hle, -⟩ := srcInstr_some hsrc
  omega

/-- A completed control-transfer instruction leaves `SF` false, taken or not (R178, R236). -/
theorem sf_of_completed_jump {i : Instr} {s t : State} (hi : 11 ≤ i.opc.toNat) (h : exec i s = .next t)
    (ht : t.hs = .run) : t.sf = false := by
  rcases exec_next_handlerOf h with ⟨r, hr, rfl⟩ | ⟨e, -, rfl⟩
  · obtain ⟨ops, hops⟩ := exists_jumpInstr_of_opc hi
    obtain ⟨taken, report, hform⟩ := handlerOf_jumpInstr hops s
    exact commit_sf_of_jumpWhen (hform.symm.trans hr)
  · cases ht

end Sys2Proof.Machine

namespace Sys2Proof.Claims

open Sys2Proof.Machine

/-- Settles O18: a started core is a reset, whatever its load gave it, and a reset clears registers, `pc` and flags. -/
theorem bootResetsTheCore : Obligations.BootResetsTheCore := by
  intro p lines s h
  obtain ⟨hreset, -⟩ := resetClearsRegistersAndFlags
  rcases boot_started_cases h with ⟨hload, rfl⟩ | ⟨imem, labels, hload, rfl⟩
  · obtain ⟨hx, hpc, hzf, hsf⟩ := hreset p [] [] (.fault .duplicateLabel 0#32 none)
    exact ⟨hx, hpc, hzf, hsf, .inl ⟨hload, rfl⟩⟩
  · obtain ⟨hx, hpc, hzf, hsf⟩ := hreset p imem labels .run
    exact ⟨hx, hpc, hzf, hsf, .inr ⟨imem, labels, hload, rfl, rfl, rfl⟩⟩

/-- Settles O20: the label's value counts the instruction lines before it, minus one, and a taken jump adds the one back. -/
theorem jumpLandsAfterItsLabel : Obligations.JumpLandsAfterItsLabel := by
  intro p before l after s0 s hboot hrun hl
  have hload := load_ok_of_boot_run hboot hrun
  obtain ⟨hlookup, -, hrange⟩ := labelValuesCountInstructions _ _ _ _ _ _ hload hl
  obtain ⟨-, hjumps⟩ := jmpAlwaysJumps
  constructor
  · rw [classifyLabel, hlookup, hjumps, jumped, ofInt_sub_one_add_one]
  · have hstore : s0.imem.length ≤ maxInstructions := (bootMeetsTheInvariant _ _ _ hboot).store
    omega

/-- Settles O55: the first jump leaves `SF` false, and `jl` jumps only where `SF` is true. -/
theorem jumpsClobberTheFlags : Obligations.JumpsClobberTheFlags := by
  intro i s t v hi _ hexec ht
  obtain ⟨-, hjl⟩ := jlJumpsWhenSignOnly
  obtain ⟨-, hnotTaken⟩ := hjl t v
  have hcond : (t.sf && !t.zf) = false := by rw [sf_of_completed_jump hi hexec ht, Bool.false_and]
  exact hnotTaken hcond

end Sys2Proof.Claims
end
